-- ==== Sys2Proof/Word.lean ====
section
/-! DEFINITION. The word types of the LS-8 engine (spec/00_scope.md R5; spec/10_state.md R10, R14). -/

namespace Sys2Proof

/-- A register, a memory cell, an opcode or an operand: 8 bits, unsigned (00 R5, 10 R10, 42 R101). -/
abbrev Byte := BitVec 8

/-- The program counter: 9 bits, unsigned (10 R14, the spec's decision D2; log entry 2). -/
abbrev Pc := BitVec 9

end Sys2Proof
end

