-- ==== Sys2Proof/Syntax.lean ====
section
/-! DEFINITION. The instructions of the LS-8 engine: one constructor per row of spec/opcode_table.json
(spec/30_encoding.md R56), in the table's order. -/

namespace Sys2Proof

/-- One instruction, with the operand bytes its format names (30 R51) and no ignored window byte.
A register operand stays the whole byte the window holds: the handler checks it, since a byte above 7 is no other
encoding but an OperandRangeError (30 R54, R59; log entry 8). -/
inductive Instr where
  /-- HALT (HLT), format Z (41 R85). -/
  | halt
  /-- LOAD_IMMEDIATE (LDI) reg, value, format RI (41 R86). -/
  | loadImmediate (op1 op2 : Byte)
  /-- PRINT_REGISTER (PRN) reg, format R (41 R87). -/
  | printRegister (op1 : Byte)
  /-- MULTIPLY (MUL) regA, regB, format RR (42 R96). -/
  | multiply (op1 op2 : Byte)
  /-- ADD regA, regB, format RR (42 R97). -/
  | add (op1 op2 : Byte)
  /-- COMPARE (CMP) regA, regB, format RR (42 R98). -/
  | compare (op1 op2 : Byte)
  /-- PUSH reg, format R (43 R106). -/
  | push (op1 : Byte)
  /-- POP reg, format R (43 R107). -/
  | pop (op1 : Byte)
  /-- CALL reg, format R (44 R114). -/
  | call (op1 : Byte)
  /-- RETURN (RET), format Z (44 R116). -/
  | ret
  /-- JUMP (JMP) reg, format R (44 R118). -/
  | jump (op1 : Byte)
  /-- JUMP_IF_EQUAL (JEQ) reg, format R (44 R120). -/
  | jumpIfEqual (op1 : Byte)
  /-- JUMP_IF_NOT_EQUAL (JNE) reg, format R (44 R122). -/
  | jumpIfNotEqual (op1 : Byte)
  deriving DecidableEq, Repr

end Sys2Proof
end

