-- ==== Sys2Proof/Decode.lean ====
section
/-! DEFINITION. The opcode map, the instruction formats, the decoder and the encoder (spec/30_encoding.md R50 to R60;
spec/opcode_table.json). -/

namespace Sys2Proof

/-- The 13 instruction names, in the order of the dispatch table (30 R56). -/
inductive Mnemonic where
  | halt | loadImmediate | printRegister | multiply | add | compare | push | pop | call | ret | jump
  | jumpIfEqual | jumpIfNotEqual
  deriving DecidableEq, Repr

/-- The four formats (30 R51). -/
inductive Format where
  | z | r | ri | rr
  deriving DecidableEq, Repr

/-- All names, in the table's order (30 R56); the set is closed at these (30 R58, R59). -/
def Mnemonic.all : List Mnemonic :=
  [.halt, .loadImmediate, .printRegister, .multiply, .add, .compare, .push, .pop, .call, .ret, .jump,
   .jumpIfEqual, .jumpIfNotEqual]

/-- `OPC`: the opcode byte of each instruction (30 R56). PRESUMED: the spec takes the values from general knowledge
of the LS-8 (its decision D1; log entry 1). -/
def Mnemonic.opcode : Mnemonic → Byte
  | .halt => 0x01#8
  | .loadImmediate => 0x82#8
  | .printRegister => 0x47#8
  | .multiply => 0xA2#8
  | .add => 0xA0#8
  | .compare => 0xA7#8
  | .push => 0x45#8
  | .pop => 0x46#8
  | .call => 0x50#8
  | .ret => 0x11#8
  | .jump => 0x54#8
  | .jumpIfEqual => 0x55#8
  | .jumpIfNotEqual => 0x56#8

/-- The format of each instruction (30 R51, R56). -/
def Mnemonic.format : Mnemonic → Format
  | .halt => .z
  | .loadImmediate => .ri
  | .printRegister => .r
  | .multiply => .rr
  | .add => .rr
  | .compare => .rr
  | .push => .r
  | .pop => .r
  | .call => .r
  | .ret => .z
  | .jump => .r
  | .jumpIfEqual => .r
  | .jumpIfNotEqual => .r

/-- The length of a format in bytes (30 R51). -/
def Format.length : Format → Nat
  | .z => 1
  | .r => 2
  | .ri => 3
  | .rr => 3

/-- `Decode(b0)`: the instruction whose opcode value is the whole byte `b0`, or none for an unknown opcode
(30 R58, R60; 40 R73). No bit field of the byte is looked at (30 R57). -/
def decodeOpcode (b0 : Byte) : Option Mnemonic :=
  Mnemonic.all.find? fun m => m.opcode == b0

/-- The instruction a name and the two operand bytes of the window make; what the format does not name is ignored
(30 R51, R55). -/
def Mnemonic.instr (m : Mnemonic) (op1 op2 : Byte) : Instr :=
  match m with
  | .halt => .halt
  | .loadImmediate => .loadImmediate op1 op2
  | .printRegister => .printRegister op1
  | .multiply => .multiply op1 op2
  | .add => .add op1 op2
  | .compare => .compare op1 op2
  | .push => .push op1
  | .pop => .pop op1
  | .call => .call op1
  | .ret => .ret
  | .jump => .jump op1
  | .jumpIfEqual => .jumpIfEqual op1
  | .jumpIfNotEqual => .jumpIfNotEqual op1

/-- The instruction in a window `b0`, `op1`, `op2`, or none for an unknown opcode (30 R50, R60). -/
def decodeWindow (b0 op1 op2 : Byte) : Option Instr :=
  (decodeOpcode b0).map fun m => m.instr op1 op2

/-- Why bytes are no instruction. -/
inductive DecodeError where
  /-- The first byte is one of the 243 unknown opcodes (30 R58). -/
  | unknownOpcode (b0 : Byte)
  /-- Fewer bytes than the window's three: the fetch always takes three (30 R50). -/
  | shortWindow (available : Nat)
  deriving DecidableEq, Repr

/-- The decoder on any bytes, lowest address first: it takes the window, and rejects by name (30 R50, R60). -/
def decode : List Byte → Except DecodeError Instr
  | b0 :: op1 :: op2 :: _ =>
    match decodeWindow b0 op1 op2 with
    | some i => .ok i
    | none => .error (.unknownOpcode b0)
  | bytes => .error (.shortWindow bytes.length)

/-- The name of an instruction. -/
def Instr.mnemonic : Instr → Mnemonic
  | .halt => .halt
  | .loadImmediate _ _ => .loadImmediate
  | .printRegister _ => .printRegister
  | .multiply _ _ => .multiply
  | .add _ _ => .add
  | .compare _ _ => .compare
  | .push _ => .push
  | .pop _ => .pop
  | .call _ => .call
  | .ret => .ret
  | .jump _ => .jump
  | .jumpIfEqual _ => .jumpIfEqual
  | .jumpIfNotEqual _ => .jumpIfNotEqual

/-- The operand bytes of an instruction, in window order (30 R51). -/
def Instr.operandBytes : Instr → List Byte
  | .halt => []
  | .loadImmediate op1 op2 => [op1, op2]
  | .printRegister op1 => [op1]
  | .multiply op1 op2 => [op1, op2]
  | .add op1 op2 => [op1, op2]
  | .compare op1 op2 => [op1, op2]
  | .push op1 => [op1]
  | .pop op1 => [op1]
  | .call op1 => [op1]
  | .ret => []
  | .jump op1 => [op1]
  | .jumpIfEqual op1 => [op1]
  | .jumpIfNotEqual op1 => [op1]

/-- The bytes of an instruction as a program lays them out: the opcode, then the operand bytes of its format, one,
two or three bytes in all (30 R51, R62). -/
def encode (i : Instr) : List Byte :=
  i.mnemonic.opcode :: i.operandBytes

/-- The three window bytes of a number `w` of `nbits` bits, numbered as spec/opcode_table.json numbers its rows: the
row is ONE number, whose most significant byte is the byte at `pc` (30 R56: bits 23:16 of 24; log entry 6). A row of
fewer than three bytes is followed by zero bytes. -/
def tableWindow (nbits w : Nat) : Byte × Byte × Byte :=
  let v := BitVec.ofNat 24 (if nbits ≤ 24 then w <<< (24 - nbits) else w >>> (nbits - 24))
  (v.extractLsb' 16 8, v.extractLsb' 8 8, v.extractLsb' 0 8)

/-- The instruction the decoder reads from a row's number. -/
def decodeTableWord (nbits w : Nat) : Option Instr :=
  let (b0, op1, op2) := tableWindow nbits w
  (decode [b0, op1, op2]).toOption

end Sys2Proof
end

