-- ==== Sys2Proof/Config.lean ====
section
/-! DEFINITION. The named parameters of the implementation (spec/00_scope.md R4).
The spec decides every point its source leaves open (spec/92_eei_decisions.md), so nothing here is a free value. -/

namespace Sys2Proof.Config

/-- `MEMSIZE`: the number of memory cells, addresses 0 to 255 (00 R4, 10 R20). -/
def memSize : Nat := 256

/-- `MEM_INIT`: what a memory cell holds that nothing has written (10 R26, the spec's decision D13).
DESIGN CHOICE of the spec, unsafe: log entry 4. -/
def memInit : Byte := 0x00#8

/-- `SP_RESET`: the reset value of R7 (10 R25). -/
def spReset : Byte := 0xF4#8

/-- `PC_RESET`: the reset value of the program counter, and the entry point (10 R25). -/
def pcReset : Pc := 0#9

end Sys2Proof.Config
end

