-- ==== Sys2Proof/Machine/State.lean ====
section
/-! DEFINITION. The state of the LS-8 engine as plain data, its reset value, and the reasons a step can stop
(spec/10_state.md R10 to R26). -/

namespace Sys2Proof.Machine

/-- The error kinds of the block (60 R130). LoadError is the loader's and is not among them (60 R139). -/
inductive ErrorKind where
  /-- The fetched opcode byte is not one of the 13 (60 R132). -/
  | unknownOpcode
  /-- A register index above 7, an address outside 0 to 255, or the stack pointer past its limits (60 R133). -/
  | operandRange
  /-- The ALU invoked with an operation it does not implement; no step raises it (42 R102, 60 R134). -/
  | unsupportedAluOperation
  deriving DecidableEq, Repr

/-- The three condition flags, three separate bits with no packed layout (10 R16, R18). -/
structure Flags where
  /-- Equal. -/
  e : Bool
  /-- Less-than. -/
  l : Bool
  /-- Greater-than. -/
  g : Bool
  deriving DecidableEq, Repr

/-- The 256 memory cells as (address, byte) pairs in one canonical form: addresses strictly rising, no entry equal to
`Config.memInit`, which is what an unlisted address reads as (10 R20, R26). `Memory.wf` in Machine/Ops.lean says it. -/
abbrev Memory := List Host.Cell

/-- The whole machine state (10 R24). -/
structure State where
  /-- `x[0]` to `x[7]`; `x[7]` is the stack pointer (10 R10, R12). -/
  regs : Vector Byte 8
  /-- `pc` (10 R14). -/
  pc : Pc
  /-- `fl` (10 R16). -/
  flags : Flags
  /-- `mem` (10 R20). -/
  mem : Memory
  /-- `running` (10 R19). -/
  running : Bool
  /-- `fault`, none standing for the code `None` (10 R19). -/
  fault : Option ErrorKind
  /-- `OUT`, oldest first (10 R23). -/
  out : List Byte
  deriving DecidableEq, Repr

/-- The state after reset (10 R25, 70 R150), with no program loaded: every cell holds `MEM_INIT` (10 R26). -/
def State.reset : State where
  regs := #v[0x00#8, 0x00#8, 0x00#8, 0x00#8, 0x00#8, 0x00#8, 0x00#8, Config.spReset]
  pc := Config.pcReset
  flags := ⟨false, false, false⟩
  mem := []
  running := true
  fault := none
  out := []

/-- Why a step gives no next state. -/
inductive Fault where
  /-- Raised by `step` alone, in a state with `running = 0`: no step exists from a terminal state (40 R77, the spec's
  decision D21). Safe: the model stops where the spec says there is no step. The machine's own errors are no
  faults of this type: they are next states with `running = 0` and `fault` set (60 R135; log entry 3). -/
  | terminated
  deriving DecidableEq, Repr

/-- Why a step refuses an instruction. -/
inductive Refusal where
  /-- Raised by an arm of `exec` for an instruction that has no meaning yet; every instruction has one, so no arm
  raises it. Safe: the model stops where the hardware would go on. -/
  | notModelled (mnemonic : String)
  deriving DecidableEq, Repr

/-- The answer of a meaning and of a step. -/
abbrev Answer := Host.Outcome State Fault Refusal

end Sys2Proof.Machine
end

