-- ==== Sys2Proof/Machine/Ops.lean ====
section
/-! DEFINITION. The operations over memory and registers, raising an error, and completing an instruction
(spec/00_scope.md R6; spec/20_memory.md R30 to R33; spec/40_fetch_decode_execute.md R74 to R76;
spec/60_exceptions.md R135). -/

namespace Sys2Proof.Machine

/-! ### Memory -/

/-- The byte at address `a`: the listed one, or `MEM_INIT` (10 R20, R26). -/
def Memory.read : Memory → Nat → Byte
  | [], _ => Config.memInit
  | c :: m, a => if c.1 = a then c.2 else Memory.read m a

/-- The list with the cell put before the first greater address. -/
def Memory.insert : Memory → Nat → Byte → Memory
  | [], a, v => [(a, v)]
  | c :: m, a, v => if a < c.1 then (a, v) :: c :: m else c :: Memory.insert m a v

/-- The list without any cell at address `a`. -/
def Memory.erase : Memory → Nat → Memory
  | [], _ => []
  | c :: m, a => if c.1 = a then Memory.erase m a else c :: Memory.erase m a

/-- Store `v` at address `a`, every other cell unchanged, in canonical form (20 R33). -/
def Memory.write (m : Memory) (a : Nat) (v : Byte) : Memory :=
  if v = Config.memInit then m.erase a else (m.erase a).insert a v

/-- The canonical form: addresses strictly rising and inside the memory, no cell equal to `MEM_INIT`. -/
abbrev Memory.wf (m : Memory) : Prop :=
  m.Pairwise (fun c d => c.1 < d.1) ∧ ∀ c ∈ m, c.1 < Config.memSize ∧ c.2 ≠ Config.memInit

/-- Put bytes at `a`, `a + 1`, and on; a byte whose address does not exist is not put anywhere. -/
def Memory.place : Memory → Nat → List Byte → Memory
  | m, _, [] => m
  | m, a, b :: bs => Memory.place (if a < Config.memSize then m.write a b else m) (a + 1) bs

/-- An address is valid exactly when it is an integer from 0 to 255 (20 R31). -/
abbrev ValidAddress (addr : Int) : Prop := 0 ≤ addr ∧ addr ≤ 255

/-- `MemRead(addr, 1)` on an unbounded integer address (20 R32). -/
def memRead (s : State) (addr : Int) : Except ErrorKind Byte :=
  if ValidAddress addr then .ok (s.mem.read addr.toNat) else .error .operandRange

/-- Replace the memory. -/
def State.setMem (s : State) (m : Memory) : State := { s with mem := m }

/-- `MemWrite(addr, 1, v)` on an unbounded integer address (20 R33). -/
def memWrite (s : State) (addr : Int) (v : Byte) : Except ErrorKind State :=
  if ValidAddress addr then .ok (s.setMem (s.mem.write addr.toNat v)) else .error .operandRange

/-! ### Registers, flags, output -/

/-- `x[i]` (10 R11). -/
def State.reg (s : State) (i : Fin 8) : Byte := s.regs[i]

/-- `x[i] <- v` (10 R11). -/
def State.setReg (s : State) (i : Fin 8) (v : Byte) : State := { s with regs := s.regs.set i v }

/-- `SP`, another name of `x[7]` (10 R12). -/
def State.sp (s : State) : Byte := s.reg 7

/-- `SP <- v`. -/
def State.setSp (s : State) (v : Byte) : State := s.setReg 7 v

/-- `pc <- target` (00 R6). -/
def State.setPc (s : State) (target : Pc) : State := { s with pc := target }

/-- Write all three flags (10 R16). -/
def State.setFlags (s : State) (f : Flags) : State := { s with flags := f }

/-- `running <- b` (10 R19). -/
def State.setRunning (s : State) (b : Bool) : State := { s with running := b }

/-- `Output(v)`: one event on the output port, appended to `OUT` (41 R89). -/
def State.output (s : State) (v : Byte) : State := { s with out := s.out ++ [v] }

/-! ### The stack pointer -/

/-- Decrement the stack pointer; at 0 it would leave the addresses, and raises (10 R13, 43 R106, 44 R114). -/
def decrementSp (s : State) : Except ErrorKind State :=
  if s.sp = 0#8 then .error .operandRange else .ok (s.setSp (s.sp - 1#8))

/-- Increment the stack pointer; at 255 it would leave the addresses, and raises (10 R13, 43 R107, 44 R116). -/
def incrementSp (s : State) : Except ErrorKind State :=
  if s.sp = 255#8 then .error .operandRange else .ok (s.setSp (s.sp + 1#8))

/-! ### Raising an error, and completing an instruction -/

/-- `raise K`, the only trap entry there is, applied to the state before the step: no write of the step has taken
effect, `running <- 0`, `fault <- K`; nothing is saved and control goes nowhere (60 R135, R136). There is no return
from it (60 R138). -/
def State.raise (s : State) (k : ErrorKind) : State := { s with running := false, fault := some k }

/-- What a handler returns: whether it wrote `pc` itself is a flag of its result, not a comparison of `pc` with its
old value (40 R74, R75). -/
inductive Handled where
  /-- It did not write `pc`: the engine adds `delta`; continuation 1. -/
  | advance (delta : Nat) (s : State)
  /-- It wrote `pc`: nothing is added; continuation 1. -/
  | pcWritten (s : State)
  /-- It returns no advance and continuation 0 (HALT). -/
  | stop (s : State)
  deriving DecidableEq, Repr

/-- The advance and the continuation of the step (40 R70, R75, R76), or the raise of the handler's error on the state
before it (60 R135). -/
def complete (s : State) : Except ErrorKind Handled → Answer
  | .ok (.advance delta t) => .next ((t.setPc (t.pc + BitVec.ofNat 9 delta)).setRunning true)
  | .ok (.pcWritten t) => .next (t.setRunning true)
  | .ok (.stop t) => .next (t.setRunning false)
  | .error k => .next (s.raise k)

end Sys2Proof.Machine
end

