-- ==== Sys2Proof/Machine/Flags.lean ====
section
/-! DEFINITION. The flag computation and the ALU (spec/42_alu.md R95, R98 to R102). -/

namespace Sys2Proof.Machine

/-- The flags of a comparison of two unsigned bytes (42 R98, R99, R101). -/
def compareFlags (a b : Byte) : Flags where
  e := decide (a = b)
  l := decide (a < b)
  g := decide (a > b)

/-- What the ALU produces: an 8-bit result, or the three flags (42 R95). -/
inductive AluResult where
  | value (v : Byte)
  | flags (f : Flags)
  deriving DecidableEq, Repr

/-- The ALU on two register values. ADD and MULTIPLY are modulo 256 and set no flag (42 R96, R97, R100); handed any
operation but its three it raises UnsupportedAluOperationError (42 R102, 60 R134). -/
def alu (op : Mnemonic) (a b : Byte) : Except ErrorKind AluResult :=
  match op with
  | .multiply => .ok (.value (a * b))
  | .add => .ok (.value (a + b))
  | .compare => .ok (.flags (compareFlags a b))
  | .halt | .loadImmediate | .printRegister | .push | .pop | .call | .ret | .jump | .jumpIfEqual
  | .jumpIfNotEqual => .error .unsupportedAluOperation

/-- Where the ALU's result goes: a value to register A, flags to the flags (42 R95). -/
def State.setAlu (s : State) (a : Fin 8) : AluResult → State
  | .value v => s.setReg a v
  | .flags f => s.setFlags f

end Sys2Proof.Machine
end

