-- ==== Sys2Proof/Machine/Operands.lean ====
section
/-! DEFINITION. The operand forms: a register index, and a jump target (spec/30_encoding.md R53, R54;
spec/00_scope.md R6). The immediate is its byte as it stands (30 R53). -/

namespace Sys2Proof.Machine

/-- `RegIdx(b)`: the whole byte is the index; above 7 it raises, and is never masked (30 R54). -/
def regIdx (b : Byte) : Except ErrorKind (Fin 8) :=
  if h : b.toNat < 8 then .ok ⟨b.toNat, h⟩ else .error .operandRange

/-- `zext_9(v)` (00 R6). -/
def zext9 (v : Byte) : Pc := v.setWidth 9

/-- `p[7:0]`, the low byte of a program counter value (44 R114). -/
def lowByte (p : Pc) : Byte := p.setWidth 8

end Sys2Proof.Machine
end

