-- ==== Sys2Proof/Machine/Alu.lean ====
section
/-! DEFINITION. MULTIPLY, ADD, COMPARE (spec/42_alu.md). -/

namespace Sys2Proof.Machine

/-- The handler the three ALU instructions share: op1 is checked first, both registers are read, the result goes to
register A or to the flags (42 R95, R103; 60 R137). -/
def aluHandler (op : Mnemonic) (op1 op2 : Byte) (s : State) : Except ErrorKind Handled := do
  let a ← regIdx op1
  let b ← regIdx op2
  let r ← alu op (s.reg a) (s.reg b)
  .ok (.advance 3 (s.setAlu a r))

/-- MULTIPLY (42 R96). -/
def execMultiply (op1 op2 : Byte) (s : State) : Answer :=
  complete s (aluHandler .multiply op1 op2 s)

/-- ADD (42 R97). -/
def execAdd (op1 op2 : Byte) (s : State) : Answer :=
  complete s (aluHandler .add op1 op2 s)

/-- COMPARE (42 R98). -/
def execCompare (op1 op2 : Byte) (s : State) : Answer :=
  complete s (aluHandler .compare op1 op2 s)

end Sys2Proof.Machine
end

