-- ==== Sys2Proof/Machine/Control.lean ====
section
/-! DEFINITION. CALL, RETURN, JUMP, JUMP_IF_EQUAL, JUMP_IF_NOT_EQUAL (spec/44_control_transfer.md). -/

namespace Sys2Proof.Machine

/-- CALL (44 R114): pushes the low byte of `pc + 2`, and reads the target after the decrement, so CALL R7 jumps to the
decremented pointer (the spec's decision D10; log entry 10). -/
def execCall (op1 : Byte) (s : State) : Answer :=
  complete s do
    let t ← regIdx op1
    let s ← decrementSp s
    let s ← memWrite s s.sp.toNat (lowByte (s.pc + 2#9))
    .ok (.pcWritten (s.setPc (zext9 (s.reg t))))

/-- RETURN (44 R116). -/
def execReturn (s : State) : Answer :=
  complete s do
    let v ← memRead s s.sp.toNat
    let s ← incrementSp s
    .ok (.pcWritten (s.setPc (zext9 v)))

/-- JUMP (44 R118). -/
def execJump (op1 : Byte) (s : State) : Answer :=
  complete s do
    let t ← regIdx op1
    .ok (.pcWritten (s.setPc (zext9 (s.reg t))))

/-- The handler the two conditional jumps share: the operand is checked whether or not the jump is taken
(44 R121, the spec's decision D7; log entry 12). -/
def jumpWhen (taken : Bool) (op1 : Byte) (s : State) : Except ErrorKind Handled := do
  let t ← regIdx op1
  if taken then .ok (.pcWritten (s.setPc (zext9 (s.reg t)))) else .ok (.advance 2 s)

/-- JUMP_IF_EQUAL (44 R120). -/
def execJumpIfEqual (op1 : Byte) (s : State) : Answer :=
  complete s (jumpWhen s.flags.e op1 s)

/-- JUMP_IF_NOT_EQUAL (44 R122). -/
def execJumpIfNotEqual (op1 : Byte) (s : State) : Answer :=
  complete s (jumpWhen (!s.flags.e) op1 s)

end Sys2Proof.Machine
end

