-- ==== Sys2Proof/Machine/Stack.lean ====
section
/-! DEFINITION. PUSH and POP (spec/43_stack.md). -/

namespace Sys2Proof.Machine

/-- PUSH (43 R106): the stack pointer is decremented first, and the source is read after it, so PUSH R7 stores the
decremented pointer (the spec's decision D10; log entry 10). -/
def execPush (op1 : Byte) (s : State) : Answer :=
  complete s do
    let r ← regIdx op1
    let s ← decrementSp s
    let s ← memWrite s s.sp.toNat (s.reg r)
    .ok (.advance 2 s)

/-- POP (43 R107): the register is written first, and the pointer incremented after it, so POP R7 ends with the popped
value plus one (the spec's decision D10; log entry 10). -/
def execPop (op1 : Byte) (s : State) : Answer :=
  complete s do
    let d ← regIdx op1
    let v ← memRead s s.sp.toNat
    let s ← incrementSp (s.setReg d v)
    .ok (.advance 2 s)

end Sys2Proof.Machine
end

