-- ==== Sys2Proof/Machine/System.lean ====
section
/-! DEFINITION. HALT, LOAD_IMMEDIATE, PRINT_REGISTER (spec/41_system_and_data.md). -/

namespace Sys2Proof.Machine

/-- HALT (41 R85): `running <- 0`, nothing else; `pc` stays (the spec's decision D9; log entry 9). -/
def execHalt (s : State) : Answer :=
  complete s (.ok (.stop s))

/-- LOAD_IMMEDIATE (41 R86). -/
def execLoadImmediate (op1 op2 : Byte) (s : State) : Answer :=
  complete s do
    let d ← regIdx op1
    .ok (.advance 3 (s.setReg d op2))

/-- PRINT_REGISTER (41 R87, R89). -/
def execPrintRegister (op1 : Byte) (s : State) : Answer :=
  complete s do
    let r ← regIdx op1
    .ok (.advance 2 (s.output (s.reg r)))

end Sys2Proof.Machine
end

