-- ==== Sys2Proof/Machine/Dispatch.lean ====
section
/-! DEFINITION. The dispatch of a decoded instruction to its meaning: the `Execute`, the advance and the continuation of
the step (spec/40_fetch_decode_execute.md R70, R74 to R76; spec/30_encoding.md R61). -/

namespace Sys2Proof.Machine

def exec (i : Instr) (s : State) : Host.Outcome State Fault Refusal :=
  match i with
  | .halt => Sys2Proof.Machine.execHalt s
  | .loadImmediate op1 op2 => Sys2Proof.Machine.execLoadImmediate op1 op2 s
  | .printRegister op1 => Sys2Proof.Machine.execPrintRegister op1 s
  | .multiply op1 op2 => Sys2Proof.Machine.execMultiply op1 op2 s
  | .add op1 op2 => Sys2Proof.Machine.execAdd op1 op2 s
  | .compare op1 op2 => Sys2Proof.Machine.execCompare op1 op2 s
  | .push op1 => Sys2Proof.Machine.execPush op1 s
  | .pop op1 => Sys2Proof.Machine.execPop op1 s
  | .call op1 => Sys2Proof.Machine.execCall op1 s
  | .ret => Sys2Proof.Machine.execReturn s
  | .jump op1 => Sys2Proof.Machine.execJump op1 s
  | .jumpIfEqual op1 => Sys2Proof.Machine.execJumpIfEqual op1 s
  | .jumpIfNotEqual op1 => Sys2Proof.Machine.execJumpIfNotEqual op1 s

end Sys2Proof.Machine
end

