-- ==== Sys2Proof/Machine/Fetch.lean ====
section
/-! DEFINITION. Fetching the instruction window and decoding it (spec/40_fetch_decode_execute.md R70 to R73). -/

namespace Sys2Proof.Machine

/-- The window at `pc`: three reads in this order, whatever the opcode; an address above 255 raises
(40 R71, R72; 20 R45). -/
def fetchWindow (s : State) : Except ErrorKind (Byte × Byte × Byte) := do
  let b0 ← memRead s s.pc.toNat
  let op1 ← memRead s (s.pc.toNat + 1)
  let op2 ← memRead s (s.pc.toNat + 2)
  .ok (b0, op1, op2)

/-- The instruction at `pc`: the whole fetch first, then the decode (40 R73, 60 R137). -/
def fetch (s : State) : Except ErrorKind Instr := do
  let (b0, op1, op2) ← fetchWindow s
  match decodeWindow b0 op1 op2 with
  | some i => .ok i
  | none => .error .unknownOpcode

end Sys2Proof.Machine
end

