-- ==== Sys2Proof/Machine/Step.lean ====
section
/-! DEFINITION. The step (spec/40_fetch_decode_execute.md R70), and placing an instruction where it fetches. -/

namespace Sys2Proof.Machine

/-- One step (40 R70): fetch, decode, execute, or the raise of the fetch's or the decoder's error. It is defined only
while `running = 1`; from a terminal state no step exists, and the model stops (40 R77; log entry 3). -/
def step (s : State) : Host.Outcome State Fault Refusal :=
  if s.running then
    match fetch s with
    | .ok i => exec i s
    | .error k => .next (s.raise k)
  else .fault .terminated

/-- `s` with the window of a row's number at `pc`, `pc + 1`, `pc + 2`, so that the next step of a running machine with
`pc` at most 253 fetches it; it stands for the loader's writes (70 R153, R154; log entries 5 and 6). -/
def State.withFetchWord (s : State) (nbits w : Nat) : State :=
  let (b0, op1, op2) := tableWindow nbits w
  s.setMem (s.mem.place s.pc.toNat [b0, op1, op2])

end Sys2Proof.Machine
end

