-- ==== Sys2Proof/Machine/Ports.lean ====
section
/-! DEFINITION. What the host sees and does between steps: the status port, the optional trace port, reset, and the
loader's contract (spec/60_exceptions.md R131, R146; spec/70_reset_and_hazards.md R150 to R156, R161).
They are no steps of the machine (log entries 14 and 17). The output port is the field `out`; the inspect port reads
the fields of State. -/

namespace Sys2Proof.Machine

/-- The 2-bit code of `fault` on the status port (60 R131). -/
def faultCode : Option ErrorKind → BitVec 2
  | none => 0#2
  | some .unknownOpcode => 1#2
  | some .operandRange => 2#2
  | some .unsupportedAluOperation => 3#2

/-- The status port: `running` and the fault code (60 R131). -/
def statusPort (s : State) : Bool × BitVec 2 := (s.running, faultCode s.fault)

/-- What the trace port presents for one step (60 R146). -/
structure TraceRecord where
  pc : Pc
  b0 : Byte
  op1 : Byte
  op2 : Byte
  regs : Vector Byte 8
  deriving DecidableEq, Repr

/-- The optional trace port: presented once per step after a successful fetch, with the values before the instruction
executes; it has no effect on any state (60 R146, the spec's decision D25). -/
def tracePort (s : State) : Option TraceRecord :=
  if s.running then
    match fetchWindow s with
    | .ok (b0, op1, op2) => some ⟨s.pc, b0, op1, op2, s.regs⟩
    | .error _ => none
  else none

/-- Reset: the state of rule R150, memory not touched; it may be applied in any state (70 R150, R151). -/
def State.applyReset (s : State) : State := { State.reset with mem := s.mem }

/-- Why a load fails. A file that cannot be opened or parsed is the loader's own matter (70 R156). -/
inductive LoadError where
  /-- More than 256 bytes: byte 256 has no address (70 R154, the spec's decision D26). -/
  | tooLong
  deriving DecidableEq, Repr

/-- The loader writes byte `k` to address `k` and nothing else (70 R154). -/
def loadProgram (program : List Byte) (m : Memory) : Except LoadError Memory :=
  if program.length ≤ Config.memSize then .ok (m.place 0 program) else .error .tooLong

/-- The state in which a launch of a program starts: memory loaded, then reset released (70 R153); after a load error
the block is never released from reset, and there is no state (70 R156). -/
def launch (program : List Byte) : Except LoadError State := do
  let m ← loadProgram program State.reset.mem
  .ok ({ State.reset with mem := m }).applyReset

end Sys2Proof.Machine
end

