-- ==== Sys2Proof/Safety.lean ====
section
/-! DEFINITION. What counts as a good state and as the end of a run, in the terms the claims use
(spec/10_state.md R14, R17, R19; spec/40_fetch_decode_execute.md R77, R78). -/

namespace Sys2Proof.Machine

/-- At most one flag is set: the four reachable flag states (10 R17). -/
abbrev Flags.AtMostOne (f : Flags) : Prop :=
  f = ⟨false, false, false⟩ ∨ f = ⟨true, false, false⟩ ∨ f = ⟨false, true, false⟩ ∨ f = ⟨false, false, true⟩

/-- The invariant of the machine: memory in canonical form, `pc` at most 256 (10 R14), the flags in one of their four
states (10 R17), a fault only in a terminal state (10 R19), and never the unreachable one (42 R102). -/
structure State.Inv (s : State) : Prop where
  mem : s.mem.wf
  pc : s.pc.toNat ≤ 256
  flags : s.flags.AtMostOne
  fault : s.fault ≠ none → s.running = false
  alu : s.fault ≠ some .unsupportedAluOperation

/-- The run ended normally (40 R78). -/
abbrev State.EndedNormally (s : State) : Prop := s.running = false ∧ s.fault = none

/-- The run ended abnormally (40 R78). -/
abbrev State.EndedAbnormally (s : State) : Prop := s.running = false ∧ s.fault ≠ none

/-- `Steps n s t`: `n` steps lead from `s` to `t` (40 R78). -/
def Steps : Nat → State → State → Prop
  | 0, s, t => s = t
  | n + 1, s, t => ∃ u, step s = .next u ∧ Steps n u t

end Sys2Proof.Machine
end

