-- ==== Sys2Proof/WellFormed.lean ====
section
/-! DEFINITION. When an instruction is well formed: every register operand its format names is a register index
(spec/30_encoding.md R54). An ill-formed instruction is no refusal: the decoder yields it and its handler raises
OperandRangeError (log entry 8). -/

namespace Sys2Proof

/-- The register operands of an instruction, in the order the handler checks them (30 R51, R54; 60 R137). -/
def Instr.registerOperands : Instr → List Byte
  | .halt => []
  | .loadImmediate op1 _ => [op1]
  | .printRegister op1 => [op1]
  | .multiply op1 op2 => [op1, op2]
  | .add op1 op2 => [op1, op2]
  | .compare op1 op2 => [op1, op2]
  | .push op1 => [op1]
  | .pop op1 => [op1]
  | .call op1 => [op1]
  | .ret => []
  | .jump op1 => [op1]
  | .jumpIfEqual op1 => [op1]
  | .jumpIfNotEqual op1 => [op1]

/-- Every register operand is an index 0 to 7 (30 R54). -/
abbrev Instr.WellFormed (i : Instr) : Prop :=
  ∀ b ∈ i.registerOperands, b ≤ 7#8

end Sys2Proof
end

