-- ==== Sys2Proof/Certificates/Slice0/Obligations.lean ====
section
/-! DEFINITION. The statements about the LS-8 engine for the provers, in the order of OBLIGATIONS.json. A docstring names
the rule of spec/ a statement formalises, and the spec's decision (spec/92_eei_decisions.md) or the log entry it rests on.
Register operands are bytes: `op1.toNat = d` with `d : Fin 8` says that the byte is the index of register `d`. -/

open Sys2Proof Sys2Proof.Machine

/-! ### Encoding -/

/-- The byte sequences of the worked examples of rules R85 to R122 and of vectors V2, V40, V41, V42 decode as the spec
says. The byte values are the spec's decision D1 (log entry 1). -/
def Obligations.DocumentedWordsDecode : Prop :=
  decode [0x01#8, 0xFF#8, 0xFF#8] = .ok .halt ∧
    decode [0x82#8, 0x00#8, 0x08#8] = .ok (.loadImmediate 0 8) ∧
    decode [0x47#8, 0x00#8, 0xFF#8] = .ok (.printRegister 0) ∧
    decode [0xA2#8, 0x00#8, 0x01#8] = .ok (.multiply 0 1) ∧
    decode [0xA0#8, 0x02#8, 0x03#8] = .ok (.add 2 3) ∧
    decode [0xA7#8, 0x00#8, 0x01#8] = .ok (.compare 0 1) ∧
    decode [0x45#8, 0x00#8, 0xFF#8] = .ok (.push 0) ∧
    decode [0x46#8, 0x01#8, 0xFF#8] = .ok (.pop 1) ∧
    decode [0x50#8, 0x01#8, 0xFF#8] = .ok (.call 1) ∧
    decode [0x11#8, 0xFF#8, 0xFF#8] = .ok .ret ∧
    decode [0x54#8, 0x03#8, 0xFF#8] = .ok (.jump 3) ∧
    decode [0x55#8, 0x02#8, 0xFF#8] = .ok (.jumpIfEqual 2) ∧
    decode [0x56#8, 0x02#8, 0xFF#8] = .ok (.jumpIfNotEqual 2) ∧
    decode [0x00#8, 0x00#8, 0x00#8] = .error (.unknownOpcode 0x00#8) ∧
    decode [0xA1#8, 0x00#8, 0x01#8] = .error (.unknownOpcode 0xA1#8) ∧
    decode [0xFF#8, 0x00#8, 0x00#8] = .error (.unknownOpcode 0xFF#8)

/-- Decode and encode agree, in both directions and for every instruction with every operand byte: bytes decode to `i`
exactly when they hold a whole window and begin with the encoding of `i` (30 R50, R51, R55, R56, R60). The window bytes
after the encoding are ignored (the spec's decision D8). -/
def Obligations.DecodeIffWindowBeginsWithEncoding : Prop :=
  ∀ (bytes : List Byte) (i : Instr), decode bytes = .ok i ↔ 3 ≤ bytes.length ∧ encode i <+: bytes

/-- Instruction selection is a function of the opcode byte alone, and is total (30 R60). -/
def Obligations.OpcodeByteAloneSelects : Prop :=
  ∀ b0 : Byte,
    (∃ m : Mnemonic, ∀ op1 op2, ∃ i, decodeWindow b0 op1 op2 = some i ∧ i.mnemonic = m) ∨
      ∀ op1 op2, decodeWindow b0 op1 op2 = none

/-- Exactly the byte values other than the 13 are unknown opcodes, 0x00 among them (30 R58, the spec's decisions D1, D24). -/
def Obligations.OtherOpcodesAreUnknown : Prop :=
  ∀ b0 op1 op2 : Byte, decodeWindow b0 op1 op2 = none ↔
    b0 ∉ [0x01#8, 0x82#8, 0x47#8, 0xA2#8, 0xA0#8, 0xA7#8, 0x45#8, 0x46#8, 0x50#8, 0x11#8, 0x54#8, 0x55#8, 0x56#8]

/-- Window bytes that the format does not name have no effect on the instruction fetched (30 R55, the spec's decision
D8): both operand bytes for format Z, the second for format R. -/
def Obligations.IgnoredWindowBytesHaveNoEffect : Prop :=
  ∀ (s : State) (m : Mnemonic) (v1 v2 : Byte),
    s.pc.toNat ≤ 253 → decodeOpcode (s.mem.read s.pc.toNat) = some m →
      (m.format = .z →
        fetch { s with mem := (s.mem.write (s.pc.toNat + 1) v1).write (s.pc.toNat + 2) v2 } = fetch s) ∧
        (m.format = .r → fetch { s with mem := s.mem.write (s.pc.toNat + 2) v2 } = fetch s)

/-! ### The step -/

/-- A step of a running machine whose window bytes decode to `i`, well formed or not, is `i`'s meaning at that state, with
nothing around it: the advance of `pc` and the continuation flag are in the meaning (40 R70, R71, R73, R74). -/
def Obligations.StepRunsDecodedInstruction : Prop :=
  ∀ (s : State) (i : Instr), s.running = true → s.pc.toNat ≤ 253 →
    decode [s.mem.read s.pc.toNat, s.mem.read (s.pc.toNat + 1), s.mem.read (s.pc.toNat + 2)] = .ok i →
      step s = exec i s

/-- With `pc` at 254 or above the window leaves the memory and the step raises OperandRangeError, whatever the bytes there
are (40 R72, the spec's decision D3). -/
def Obligations.FetchPastMemoryRaises : Prop :=
  ∀ s : State, s.running = true → 254 ≤ s.pc.toNat →
    step s = .next { s with running := false, fault := some .operandRange }

/-- An unknown opcode at `pc` ends the run with UnknownOpcodeError, all else as the previous instruction left it, and no
further instruction executes (60 R132). -/
def Obligations.UnknownOpcodeEndsTheRun : Prop :=
  ∀ s : State, s.running = true → s.pc.toNat ≤ 253 → (∀ m : Mnemonic, s.mem.read s.pc.toNat ≠ m.opcode) →
    step s = .next { s with running := false, fault := some .unknownOpcode } ∧
      step { s with running := false, fault := some .unknownOpcode } = .fault .terminated

/-- From a terminal state no step exists (40 R77, the spec's decision D21; log entry 3); from every other state one
does. -/
def Obligations.StepExistsExactlyWhileRunning : Prop :=
  ∀ s : State, (s.running = false → step s = .fault .terminated) ∧ (s.running = true → ∃ t, step s = .next t)

/-- A register operand above 7 makes every instruction that names one raise OperandRangeError before anything else,
change nothing but `running` and `fault`, and that for a conditional jump whether or not it is taken (30 R54, 44 R121, 60
R133 b and c; the spec's decisions D5, D7). -/
def Obligations.RegisterOperandAboveSevenRaises : Prop :=
  ∀ (s : State) (i : Instr), ¬i.WellFormed →
    exec i s = .next { s with running := false, fault := some .operandRange }

/-! ### The instructions -/

/-- HALT clears `running` and changes nothing else, and no second instruction executes after it; that `pc` stays is the
spec's decision D9 (41 R85; log entry 9). -/
def Obligations.HaltStopsTheMachine : Prop :=
  ∀ s : State, exec .halt s = .next { s with running := false } ∧
    step { s with running := false } = .fault .terminated

/-- LOAD_IMMEDIATE writes the immediate to the named register, any of the eight (41 R86). -/
def Obligations.LoadImmediateWritesRegister : Prop :=
  ∀ (s : State) (op1 op2 : Byte) (d : Fin 8), op1.toNat = d →
    exec (.loadImmediate op1 op2) s =
      .next { s with regs := s.regs.set d op2, pc := s.pc + 3#9, running := true }

/-- PRINT_REGISTER appends the register's value to the output (41 R87, R89, the spec's decision D12). -/
def Obligations.PrintRegisterEmitsValue : Prop :=
  ∀ (s : State) (op1 : Byte) (r : Fin 8), op1.toNat = r →
    exec (.printRegister op1) s =
      .next { s with out := s.out ++ [s.regs[r]], pc := s.pc + 2#9, running := true }

/-- MULTIPLY and ADD write the unsigned product and sum modulo 256 to register A, any of the eight, R7 without a range check;
overflow raises nothing and sets nothing, and with one register twice both reads see the old value (42 R100). -/
def Obligations.AluResultsWrapModulo256 : Prop :=
  ∀ (s : State) (op1 op2 : Byte) (a b : Fin 8), op1.toNat = a → op2.toNat = b →
    exec (.multiply op1 op2) s =
        .next { s with
          regs := s.regs.set a (BitVec.ofNat 8 (s.regs[a].toNat * s.regs[b].toNat % 256))
          pc := s.pc + 3#9
          running := true } ∧
      exec (.add op1 op2) s =
        .next { s with
          regs := s.regs.set a (BitVec.ofNat 8 ((s.regs[a].toNat + s.regs[b].toNat) % 256))
          pc := s.pc + 3#9
          running := true }

/-- COMPARE sets exactly one flag by the unsigned order of its registers and writes nothing else (42 R98, R99, R101, the
spec's decision D11). -/
def Obligations.CompareSetsExactlyOneFlag : Prop :=
  ∀ (s : State) (op1 op2 : Byte) (a b : Fin 8), op1.toNat = a → op2.toNat = b →
    (s.regs[a].toNat = s.regs[b].toNat → exec (.compare op1 op2) s =
        .next { s with flags := ⟨true, false, false⟩, pc := s.pc + 3#9, running := true }) ∧
      (s.regs[a].toNat < s.regs[b].toNat → exec (.compare op1 op2) s =
        .next { s with flags := ⟨false, true, false⟩, pc := s.pc + 3#9, running := true }) ∧
      (s.regs[b].toNat < s.regs[a].toNat → exec (.compare op1 op2) s =
        .next { s with flags := ⟨false, false, true⟩, pc := s.pc + 3#9, running := true })

/-- PUSH decrements the stack pointer and stores the source there, R7 as a source after the decrement; at 0 it raises and
changes nothing else (43 R106, R108, the spec's decisions D4, D10). -/
def Obligations.PushStoresBelowTheStackPointer : Prop :=
  ∀ (s : State) (op1 : Byte) (r : Fin 8), op1.toNat = r →
    (s.regs[7] ≠ 0#8 → exec (.push op1) s =
        .next { s with
          regs := s.regs.set 7 (s.regs[7] - 1#8)
          mem := s.mem.write (s.regs[7] - 1#8).toNat (if r = 7 then s.regs[7] - 1#8 else s.regs[r])
          pc := s.pc + 2#9
          running := true }) ∧
      (s.regs[7] = 0#8 → exec (.push op1) s =
        .next { s with running := false, fault := some .operandRange })

/-- POP loads the byte at the stack pointer and increments the pointer; at 255 it raises and changes nothing else. POP R7
ends with the popped value plus one, and raises on a popped 255 (43 R107, R108, the spec's decisions D4, D10). -/
def Obligations.PopLoadsFromTheStackPointer : Prop :=
  ∀ (s : State) (op1 : Byte) (d : Fin 8), op1.toNat = d →
    (d ≠ 7 → s.regs[7] ≠ 255#8 → exec (.pop op1) s =
        .next { s with
          regs := (s.regs.set d (s.mem.read s.regs[7].toNat)).set 7 (s.regs[7] + 1#8)
          pc := s.pc + 2#9
          running := true }) ∧
      (d ≠ 7 → s.regs[7] = 255#8 → exec (.pop op1) s =
        .next { s with running := false, fault := some .operandRange }) ∧
      (d = 7 → s.mem.read s.regs[7].toNat ≠ 255#8 → exec (.pop op1) s =
        .next { s with
          regs := s.regs.set 7 (s.mem.read s.regs[7].toNat + 1#8)
          pc := s.pc + 2#9
          running := true }) ∧
      (d = 7 → s.mem.read s.regs[7].toNat = 255#8 → exec (.pop op1) s =
        .next { s with running := false, fault := some .operandRange })

/-- CALL pushes the address of the next instruction and jumps to the register's value, R7 as a target after the
decrement; at a stack pointer of 0 it raises and changes nothing else (44 R114, the spec's decisions D4, D10). -/
def Obligations.CallPushesReturnAddress : Prop :=
  ∀ (s : State) (op1 : Byte) (r : Fin 8), op1.toNat = r → s.pc.toNat ≤ 253 →
    (s.regs[7] ≠ 0#8 → exec (.call op1) s =
        .next { s with
          regs := s.regs.set 7 (s.regs[7] - 1#8)
          mem := s.mem.write (s.regs[7] - 1#8).toNat (BitVec.ofNat 8 (s.pc.toNat + 2))
          pc := BitVec.ofNat 9 (if r = 7 then s.regs[7] - 1#8 else s.regs[r]).toNat
          running := true }) ∧
      (s.regs[7] = 0#8 → exec (.call op1) s =
        .next { s with running := false, fault := some .operandRange })

/-- RETURN pops the program counter, whoever stored it; at a stack pointer of 255 it raises and changes nothing else
(44 R116, the spec's decision D4). -/
def Obligations.ReturnPopsProgramCounter : Prop :=
  ∀ s : State,
    (s.regs[7] ≠ 255#8 → exec .ret s =
        .next { s with
          regs := s.regs.set 7 (s.regs[7] + 1#8)
          pc := BitVec.ofNat 9 (s.mem.read s.regs[7].toNat).toNat
          running := true }) ∧
      (s.regs[7] = 255#8 → exec .ret s =
        .next { s with running := false, fault := some .operandRange })

/-- JUMP sets `pc` to the register's value and adds nothing, a jump to itself included (44 R118, 40 R75). -/
def Obligations.JumpSetsProgramCounter : Prop :=
  ∀ (s : State) (op1 : Byte) (r : Fin 8), op1.toNat = r →
    exec (.jump op1) s = .next { s with pc := BitVec.ofNat 9 s.regs[r].toNat, running := true }

/-- JUMP_IF_EQUAL jumps when Equal is set and else advances by two; no flag changes (44 R120). -/
def Obligations.JumpIfEqualFollowsEqualFlag : Prop :=
  ∀ (s : State) (op1 : Byte) (r : Fin 8), op1.toNat = r →
    (s.flags.e = true → exec (.jumpIfEqual op1) s =
        .next { s with pc := BitVec.ofNat 9 s.regs[r].toNat, running := true }) ∧
      (s.flags.e = false → exec (.jumpIfEqual op1) s =
        .next { s with pc := s.pc + 2#9, running := true })

/-- JUMP_IF_NOT_EQUAL jumps when Equal is clear and else advances by two; no flag changes (44 R122). -/
def Obligations.JumpIfNotEqualFollowsEqualFlag : Prop :=
  ∀ (s : State) (op1 : Byte) (r : Fin 8), op1.toNat = r →
    (s.flags.e = false → exec (.jumpIfNotEqual op1) s =
        .next { s with pc := BitVec.ofNat 9 s.regs[r].toNat, running := true }) ∧
      (s.flags.e = true → exec (.jumpIfNotEqual op1) s =
        .next { s with pc := s.pc + 2#9, running := true })

/-! ### Frames -/

/-- What LOAD_IMMEDIATE, MULTIPLY and ADD leave unchanged: every register but the named destination, the flags, every
byte of memory, the output; `fault` and `running` too unless they raise (10 R11, R16, 20 R35, 41 R86, 42 R96, R97). -/
def Obligations.RegisterWritersFrame : Prop :=
  ∀ (s t : State) (op1 op2 : Byte) (i : Instr),
    i = .loadImmediate op1 op2 ∨ i = .multiply op1 op2 ∨ i = .add op1 op2 → exec i s = .next t →
      (∀ j : Fin 8, j.val ≠ op1.toNat → t.regs[j] = s.regs[j]) ∧ t.flags = s.flags ∧
        (∀ a, t.mem.read a = s.mem.read a) ∧ t.out = s.out ∧
        ((t.running = true ∧ t.fault = s.fault) ∨
          (t.running = false ∧ t.fault = some .operandRange ∧ t.regs = s.regs ∧ t.pc = s.pc))

/-- What HALT, PRINT_REGISTER, COMPARE and the three jumps leave unchanged: every register, every byte of memory, the
flags unless it is COMPARE, the output unless it is PRINT_REGISTER; `fault` too unless they raise, and then all of
it (10 R11, R16, 20 R35, 41 R85, R87, 42 R98, 44 R118, R120, R122). -/
def Obligations.NothingStoredFrame : Prop :=
  ∀ (s t : State) (op1 op2 : Byte) (i : Instr),
    i = .halt ∨ i = .printRegister op1 ∨ i = .compare op1 op2 ∨ i = .jump op1 ∨ i = .jumpIfEqual op1 ∨
        i = .jumpIfNotEqual op1 → exec i s = .next t →
      (∀ j : Fin 8, t.regs[j] = s.regs[j]) ∧ (∀ a, t.mem.read a = s.mem.read a) ∧
        (i ≠ .compare op1 op2 → t.flags = s.flags) ∧ (i ≠ .printRegister op1 → t.out = s.out) ∧
        ((t.running = (i != .halt) ∧ t.fault = s.fault) ∨
          (t.running = false ∧ t.fault = some .operandRange ∧ t.flags = s.flags ∧ t.out = s.out ∧ t.pc = s.pc))

/-- What PUSH and CALL leave unchanged: every register but R7, the flags, the output, and every byte of memory but the
one at the decremented stack pointer; when they raise, that byte and R7 too (10 R11, R16, 20 R35, 43 R106, 44 R114). -/
def Obligations.StoringInstructionsFrame : Prop :=
  ∀ (s t : State) (op1 : Byte) (i : Instr), i = .push op1 ∨ i = .call op1 → exec i s = .next t →
    (∀ j : Fin 8, j ≠ 7 → t.regs[j] = s.regs[j]) ∧ t.flags = s.flags ∧ t.out = s.out ∧
      (∀ a, a ≠ (s.sp - 1#8).toNat → t.mem.read a = s.mem.read a) ∧
      ((t.running = true ∧ t.fault = s.fault) ∨
        (t.running = false ∧ t.fault = some .operandRange ∧ t.regs = s.regs ∧
          (∀ a, t.mem.read a = s.mem.read a) ∧ t.pc = s.pc))

/-- What POP and RETURN leave unchanged: every register but R7 and POP's destination, the flags, the output and every byte
of memory; when they raise, those registers too (10 R11, R16, 20 R35, 43 R107, 44 R116). -/
def Obligations.PoppingInstructionsFrame : Prop :=
  ∀ (s t : State) (op1 : Byte) (i : Instr), i = .pop op1 ∨ i = .ret → exec i s = .next t →
    (∀ j : Fin 8, j ≠ 7 → (i = .pop op1 → j.val ≠ op1.toNat) → t.regs[j] = s.regs[j]) ∧
      t.flags = s.flags ∧ t.out = s.out ∧ (∀ a, t.mem.read a = s.mem.read a) ∧
      ((t.running = true ∧ t.fault = s.fault) ∨
        (t.running = false ∧ t.fault = some .operandRange ∧ t.regs = s.regs ∧ t.pc = s.pc))

/-! ### The whole machine -/

/-- The invariant holds after reset (10 R17, R25, R26). -/
def Obligations.ResetMeetsInvariant : Prop := State.reset.Inv

/-- Every step keeps the invariant, from every state that meets it: memory stays in its canonical form, `pc` in 0 to 256,
the flags in one of their four states, a fault only in a terminal state and never the unreachable one (10 R14, R17, R19,
42 R102; the spec's decisions D2, D20). -/
def Obligations.EveryStepKeepsInvariant : Prop :=
  ∀ s t : State, s.Inv → step s = .next t → t.Inv

/-- COMPARE alone writes the flags, all three by the table of rule R99 whatever they were; the conditional jumps alone read
them, and read only Equal; every other instruction leaves them unchanged and does the same whatever they are
(10 R16, 42 R99). That the table's order, so Less and Greater, is the unsigned one is the spec's decision D11 (42 R101;
log entry 11). -/
def Obligations.FlagsWrittenByCompareReadByConditionalJumps : Prop :=
  (∀ (i : Instr) (s t : State), exec i s = .next t → i.mnemonic ≠ .compare → t.flags = s.flags) ∧
    (∀ (s : State) (op1 op2 : Byte) (a b : Fin 8), op1.toNat = a → op2.toNat = b →
      ∃ t, exec (.compare op1 op2) s = .next t ∧
        t.flags = if s.regs[a].toNat = s.regs[b].toNat then ⟨true, false, false⟩
          else if s.regs[a].toNat < s.regs[b].toNat then ⟨false, true, false⟩ else ⟨false, false, true⟩) ∧
    (∀ (i : Instr) (s t : State) (f : Flags), exec i s = .next t →
      i.mnemonic ≠ .jumpIfEqual → i.mnemonic ≠ .jumpIfNotEqual →
        ∃ f', exec i { s with flags := f } = .next { t with flags := f' }) ∧
    ∀ (i : Instr) (s t : State) (f : Flags), exec i s = .next t →
      i.mnemonic = .jumpIfEqual ∨ i.mnemonic = .jumpIfNotEqual → f.e = s.flags.e →
        exec i { s with flags := f } = .next { t with flags := f }

/-- Less and Greater influence neither control flow nor any other state: a run from a state with other values of them
goes the same way and differs in them alone (44 R123). -/
def Obligations.LessAndGreaterInfluenceNothing : Prop :=
  ∀ (n : Nat) (s t : State) (l g : Bool), Steps n s t →
    ∃ l' g', Steps n { s with flags := ⟨s.flags.e, l, g⟩ } { t with flags := ⟨t.flags.e, l', g'⟩ }

/-- After a step that raises, the state is the one before it but for `running` and `fault` (60 R135, R136, the spec's
decision D5). -/
def Obligations.EveryErrorIsPrecise : Prop :=
  ∀ (s t : State) (k : ErrorKind), s.fault = none → step s = .next t → t.fault = some k →
    t = { s with running := false, fault := some k }

/-- A step ends the run normally exactly when the instruction fetched is HALT (41 R85, 40 R76, R77). -/
def Obligations.OnlyHaltEndsNormally : Prop :=
  ∀ s t : State, s.fault = none → step s = .next t → (t.EndedNormally ↔ fetch s = .ok .halt)

/-- The complete list of the conditions under which a step raises OperandRangeError (60 R133 a to e, the spec's decisions
D3, D4, D7). -/
def Obligations.OperandRangeConditionsAreComplete : Prop :=
  ∀ s : State, s.running = true → s.fault = none →
    ((∃ t, step s = .next t ∧ t.fault = some .operandRange) ↔
      254 ≤ s.pc.toNat ∨ ∃ i, fetch s = .ok i ∧
        ((∃ b ∈ i.registerOperands, 7 < b.toNat) ∨
          ((i.mnemonic = .push ∨ i.mnemonic = .call) ∧ s.regs[7] = 0#8) ∨
          ((i.mnemonic = .ret ∨ (i.mnemonic = .pop ∧ i ≠ .pop 7)) ∧ s.regs[7] = 255#8) ∨
          (i = .pop 7 ∧ s.mem.read s.regs[7].toNat = 255#8)))

/-- After an error no step follows, so there is no second error and no recovery (60 R135, R138, the spec's decision D21). -/
def Obligations.NoStepFollowsAnError : Prop :=
  ∀ (s t : State) (k : ErrorKind), s.fault = none → step s = .next t → t.fault = some k →
    step t = .fault .terminated

/-- No run from reset, with any memory content, ever raises UnsupportedAluOperationError (42 R102, 60 R134, the spec's
decision D20). -/
def Obligations.UnsupportedAluOperationIsUnreachable : Prop :=
  ∀ (m : Memory) (n : Nat) (t : State), Steps n { State.reset with mem := m } t →
    t.fault ≠ some .unsupportedAluOperation

/-- Memory changes only by the stack write of a PUSH or a CALL, in the one byte at the decremented stack pointer
(20 R33, R35, R43). The clause that R7 was not 0 is the spec's own reading, not its source's: at 0 those two raise and do
not wrap (43 R108, 60 R133 d; the spec's decisions D3, D4; log entries 20, 27), and what raises leaves memory as it was
(60 R136; the spec's decision D5; log entry 7). -/
def Obligations.OnlyPushAndCallChangeMemory : Prop :=
  ∀ (s t : State) (a : Nat), step s = .next t → t.mem.read a ≠ s.mem.read a →
    (∃ op1, fetch s = .ok (.push op1) ∨ fetch s = .ok (.call op1)) ∧ s.regs[7] ≠ 0#8 ∧
      a = (s.regs[7] - 1#8).toNat

/-- The output is empty at reset, only PRINT_REGISTER appends to it, one value at the end, and no step reads it: other
earlier output changes nothing else (10 R23). -/
def Obligations.OutputGrowsOnlyByPrintRegister : Prop :=
  State.reset.out = [] ∧
    (∀ s t : State, step s = .next t → t.out = s.out ∨
      ∃ (op1 : Byte) (r : Fin 8), op1.toNat = r ∧ fetch s = .ok (.printRegister op1) ∧
        t.out = s.out ++ [s.regs[r]]) ∧
    ∀ (s t : State) (earlier : List Byte), step s = .next t →
      ∃ later, step { s with out := earlier } = .next { t with out := later }

/-- Where `pc` goes, as an unbounded number: never wrapped, by the table of rule R15 (10 R14, R15; HALT's row is the
spec's decision D9, R7 as CALL's target its decision D10). -/
def Obligations.ProgramCounterAfterInstruction : Prop :=
  ∀ (i : Instr) (s t : State), s.pc.toNat ≤ 253 → s.fault = none → exec i s = .next t →
    (t.fault ≠ none → t.pc = s.pc) ∧
      (t.fault = none →
        match i with
        | .halt => t.pc = s.pc
        | .loadImmediate _ _ | .multiply _ _ | .add _ _ | .compare _ _ => t.pc.toNat = s.pc.toNat + 3
        | .printRegister _ | .push _ | .pop _ => t.pc.toNat = s.pc.toNat + 2
        | .call op1 | .jump op1 => ∃ r : Fin 8, op1.toNat = r ∧ t.pc.toNat = t.regs[r].toNat
        | .ret => t.pc.toNat = (s.mem.read s.regs[7].toNat).toNat
        | .jumpIfEqual op1 => ∃ r : Fin 8, op1.toNat = r ∧
            t.pc.toNat = if s.flags.e then s.regs[r].toNat else s.pc.toNat + 2
        | .jumpIfNotEqual op1 => ∃ r : Fin 8, op1.toNat = r ∧
            t.pc.toNat = if s.flags.e then s.pc.toNat + 2 else s.regs[r].toNat)

/-- Equal and other flags aside, exactly one of the two conditional jumps on one register jumps: the one with Equal as it
is does what the other does with Equal inverted (44 R120, R122). -/
def Obligations.ConditionalJumpsAreComplements : Prop :=
  ∀ (s t : State) (op1 : Byte) (l g : Bool), exec (.jumpIfEqual op1) s = .next t →
    exec (.jumpIfNotEqual op1) { s with flags := ⟨!s.flags.e, l, g⟩ } =
      .next { t with flags := ⟨!s.flags.e, l, g⟩ }

/-! ### Sequences -/

/-- PUSH then POP of one register round-trips its value and the stack pointer, for every register and every stack pointer
from 1 to 255, and changes exactly the one memory cell (43 R109; R7's case is the spec's decision D10). -/
def Obligations.PushThenPopRoundTrips : Prop :=
  ∀ (s : State) (op1 : Byte) (r : Fin 8), op1.toNat = r → s.regs[7] ≠ 0#8 →
    ∃ t u, exec (.push op1) s = .next t ∧ exec (.pop op1) t = .next u ∧ u.regs = s.regs ∧
      u.mem.read (s.regs[7] - 1#8).toNat = (if r = 7 then s.regs[7] - 1#8 else s.regs[r]) ∧
      ∀ a, a ≠ (s.regs[7] - 1#8).toNat → u.mem.read a = s.mem.read a

/-- A RETURN executed after a CALL, in any state where the stack pointer and the cell at it are as the CALL left them,
resumes at the instruction after the CALL, with the stack pointer as before the CALL (44 R117). -/
def Obligations.ReturnResumesAfterCall : Prop :=
  ∀ (s t u : State) (op1 : Byte), s.pc.toNat ≤ 253 → exec (.call op1) s = .next t → t.running = true →
    u.regs[7] = t.regs[7] → u.mem.read u.regs[7].toNat = t.mem.read t.regs[7].toNat →
      ∃ v, exec .ret u = .next v ∧ v.running = true ∧ v.pc.toNat = s.pc.toNat + 2 ∧ v.regs[7] = s.regs[7]

/-- The fetch after a PUSH sees the byte the PUSH stored, in any of the three window bytes it falls on, and the loaded bytes
elsewhere (20 R40, R43, the spec's decision D14). -/
def Obligations.FetchSeesStackWrite : Prop :=
  ∀ (s t : State) (op1 : Byte) (r : Fin 8), op1.toNat = r → r ≠ 7 → s.regs[7] ≠ 0#8 →
    exec (.push op1) s = .next t → t.pc.toNat ≤ 253 →
      ∃ b0 b1 b2, fetchWindow t = .ok (b0, b1, b2) ∧
        b0 = (if t.pc.toNat = t.regs[7].toNat then s.regs[r] else s.mem.read t.pc.toNat) ∧
        b1 = (if t.pc.toNat + 1 = t.regs[7].toNat then s.regs[r] else s.mem.read (t.pc.toNat + 1)) ∧
        b2 = (if t.pc.toNat + 2 = t.regs[7].toNat then s.regs[r] else s.mem.read (t.pc.toNat + 2))

/-! ### Memory, reset, loading, ports -/

/-- The contract of the two memory operations on any integer address: outside 0 to 255 both raise OperandRangeError; inside,
a read answers the cell, and a write makes it the value and leaves every other cell and all other state (20 R32, R33). -/
def Obligations.MemoryAccessContract : Prop :=
  ∀ (s : State) (addr : Int) (v : Byte),
    (addr < 0 ∨ 255 < addr →
        memRead s addr = .error .operandRange ∧ memWrite s addr v = .error .operandRange) ∧
      (0 ≤ addr ∧ addr ≤ 255 →
        memRead s addr = .ok (s.mem.read addr.toNat) ∧
          ∃ t, memWrite s addr v = .ok t ∧ memRead t addr = .ok v ∧
            (∀ other, other ≠ addr → memRead t other = memRead s other) ∧ t = { s with mem := t.mem })

/-- Reset gives the values of rule R150 and the first fetch after it is at address 0 (70 R150). That reset may be applied in
any state and leaves memory is the spec's decision D17 (70 R151; log entry 14). -/
def Obligations.ResetGivesInitialState : Prop :=
  ∀ s : State,
    s.applyReset =
        { regs := #v[0x00#8, 0x00#8, 0x00#8, 0x00#8, 0x00#8, 0x00#8, 0x00#8, 0xF4#8]
          pc := 0#9
          flags := ⟨false, false, false⟩
          running := true
          fault := none
          out := []
          mem := s.mem } ∧
      fetchWindow s.applyReset = .ok (s.mem.read 0, s.mem.read 1, s.mem.read 2)

/-- A launch puts byte `k` of the program at address `k`, leaves 0x00 in every other cell (the spec's decision D13; log
entry 4) and starts from the reset registers; a program of more than 256 bytes is a load failure and there is no state
(10 R26, 70 R153, R154, R156; the spec's decision D26). -/
def Obligations.LaunchPlacesProgramFromZero : Prop :=
  ∀ program : List Byte,
    (program.length ≤ 256 → ∃ s, launch program = .ok s ∧
        (∀ (k : Nat) (h : k < program.length), s.mem.read k = program[k]) ∧
        (∀ k, program.length ≤ k → s.mem.read k = 0x00#8) ∧ s = { State.reset with mem := s.mem }) ∧
      (256 < program.length → launch program = .error .tooLong)

/-- The status port shows `running` and the fault codes 0 to 3 (60 R131; the codes are the spec's decision D15). -/
def Obligations.StatusPortCodes : Prop :=
  ∀ s : State, (statusPort s).1 = s.running ∧ ((statusPort s).2 = 0#2 ↔ s.fault = none) ∧
    ((statusPort s).2 = 1#2 ↔ s.fault = some .unknownOpcode) ∧
    ((statusPort s).2 = 2#2 ↔ s.fault = some .operandRange) ∧
    ((statusPort s).2 = 3#2 ↔ s.fault = some .unsupportedAluOperation)

/-- The trace port presents `pc`, the window and the registers before the instruction executes, exactly when the fetch
succeeds (60 R146; the spec's decision D25). -/
def Obligations.TracePortShowsFetchedWindow : Prop :=
  ∀ s : State, s.running = true →
    (s.pc.toNat ≤ 253 → tracePort s = some ⟨s.pc, s.mem.read s.pc.toNat, s.mem.read (s.pc.toNat + 1),
        s.mem.read (s.pc.toNat + 2), s.regs⟩) ∧
      (254 ≤ s.pc.toNat → tracePort s = none)

/-! ### Completion -/

/-- Where an instruction completes: with its register operands in 0 to 7, and with the stack pointer in range after the
decrement of PUSH and CALL or the increment of POP and RETURN (for POP R7, the popped value), every instruction completes,
and the continuation flag is 0 for HALT alone; a conditional jump completes whether or not it is taken (40 R76, 60 R133,
with its conditions b to e shut out; the spec's decisions D4, D7, D10; log entries 10, 12, 27). -/
def Obligations.InstructionsCompleteWithinStackLimits : Prop :=
  ∀ (s : State) (i : Instr), i.WellFormed →
    (i.mnemonic = .push ∨ i.mnemonic = .call → s.regs[7] ≠ 0#8) →
      (i.mnemonic = .ret ∨ (i.mnemonic = .pop ∧ i ≠ .pop 7) → s.regs[7] ≠ 255#8) →
        (i = .pop 7 → s.mem.read s.regs[7].toNat ≠ 255#8) →
          ∃ t, exec i s = .next t ∧ t.running = (i != .halt) ∧ t.fault = s.fault
end

