-- ==== Sys2Proof/Laws/Decode.lean ====
section
/-! SUPPORT. What the decoder answers, said once. -/

namespace Sys2Proof

theorem Mnemonic.mem_all (m : Mnemonic) : m ∈ Mnemonic.all := by cases m <;> decide

/-- The 13 opcode values are pairwise distinct (30 R56). -/
theorem Mnemonic.opcode_injective (m n : Mnemonic) (h : m.opcode = n.opcode) : m = n := by
  revert h
  cases m <;> cases n <;> decide

/-- A byte decodes to a name exactly when it is that name's opcode value (30 R56, R60). -/
theorem decodeOpcode_eq_some (b0 : Byte) (m : Mnemonic) : decodeOpcode b0 = some m ↔ m.opcode = b0 := by
  constructor
  · intro h
    simpa using List.find?_some h
  · rintro rfl
    cases m <;> decide

/-- A byte is unknown exactly when it is no name's opcode value (30 R58). -/
theorem decodeOpcode_eq_none (b0 : Byte) : decodeOpcode b0 = none ↔ ∀ m : Mnemonic, m.opcode ≠ b0 := by
  rw [← not_iff_not, not_forall, ← ne_eq, Option.ne_none_iff_exists']
  simp [decodeOpcode_eq_some]

/-- A window decodes to an instruction exactly when the first byte is its opcode and it is what the operand bytes
make (30 R50, R60). -/
theorem decodeWindow_eq_some (b0 op1 op2 : Byte) (i : Instr) :
    decodeWindow b0 op1 op2 = some i ↔ ∃ m : Mnemonic, m.opcode = b0 ∧ m.instr op1 op2 = i := by
  simp [decodeWindow, decodeOpcode_eq_some]

theorem decodeWindow_eq_none (b0 op1 op2 : Byte) :
    decodeWindow b0 op1 op2 = none ↔ ∀ m : Mnemonic, m.opcode ≠ b0 := by
  simp [decodeWindow, decodeOpcode_eq_none]

@[simp] theorem Mnemonic.instr_mnemonic (m : Mnemonic) (op1 op2 : Byte) : (m.instr op1 op2).mnemonic = m := by
  cases m <;> rfl

end Sys2Proof
end

