-- ==== Sys2Proof/Laws/Memory.lean ====
section
/-! SUPPORT. The laws of memory: a read after a write, and that every operation keeps the canonical form. The read laws
need no canonical form. -/

namespace Sys2Proof.Machine

@[simp] theorem Memory.read_nil (a : Nat) : Memory.read [] a = Config.memInit := rfl

theorem Memory.read_erase (m : Memory) (a b : Nat) :
    (m.erase a).read b = if a = b then Config.memInit else m.read b := by
  induction m with
  | nil => simp [Memory.erase]
  | cons c m ih =>
    by_cases hc : c.1 = a
    · simp only [Memory.erase, hc, if_true, ih, Memory.read]
      split <;> rfl
    · by_cases hb : c.1 = b
      · subst hb
        simp [Memory.erase, hc, Memory.read, Ne.symm hc]
      · simp [Memory.erase, hc, Memory.read, hb, ih]

/-- Inserting at an address that no cell has is seen at that address alone. -/
theorem Memory.read_insert (m : Memory) (a b : Nat) (v : Byte) (h : ∀ c ∈ m, c.1 ≠ a) :
    (m.insert a v).read b = if a = b then v else m.read b := by
  induction m with
  | nil => simp [Memory.insert, Memory.read]
  | cons c m ih =>
    have hc : c.1 ≠ a := h c (by simp)
    have ih := ih fun d hd => h d (by simp [hd])
    by_cases hlt : a < c.1
    · simp [Memory.insert, hlt, Memory.read]
    · by_cases hb : c.1 = b
      · subst hb
        simp [Memory.insert, hlt, Memory.read, Ne.symm hc]
      · simp [Memory.insert, hlt, Memory.read, hb, ih]

theorem Memory.mem_erase (m : Memory) (a : Nat) (c : Host.Cell) : c ∈ m.erase a ↔ c ∈ m ∧ c.1 ≠ a := by
  induction m with
  | nil => simp [Memory.erase]
  | cons d m ih =>
    by_cases hd : d.1 = a
    · simp only [Memory.erase, hd, if_true, ih, List.mem_cons]
      constructor
      · rintro ⟨hc, ha⟩
        exact ⟨.inr hc, ha⟩
      · rintro ⟨rfl | hc, ha⟩
        · exact absurd hd ha
        · exact ⟨hc, ha⟩
    · simp only [Memory.erase, hd, if_false, ih, List.mem_cons]
      constructor
      · rintro (rfl | ⟨hc, ha⟩)
        · exact ⟨.inl rfl, hd⟩
        · exact ⟨.inr hc, ha⟩
      · rintro ⟨rfl | hc, ha⟩
        · exact .inl rfl
        · exact .inr ⟨hc, ha⟩

theorem Memory.mem_insert (m : Memory) (a : Nat) (v : Byte) (c : Host.Cell) :
    c ∈ m.insert a v ↔ c = (a, v) ∨ c ∈ m := by
  induction m with
  | nil => simp [Memory.insert]
  | cons d m ih =>
    by_cases hlt : a < d.1
    · simp [Memory.insert, hlt]
    · simp only [Memory.insert, hlt, if_false, List.mem_cons, ih]
      tauto

/-- Every cell reads as the last byte written to it (20 R32, R33, R40). -/
@[simp] theorem Memory.read_write (m : Memory) (a b : Nat) (v : Byte) :
    (m.write a v).read b = if a = b then v else m.read b := by
  unfold Memory.write
  split
  · next hv => rw [Memory.read_erase, hv]
  · rw [Memory.read_insert _ _ _ _ fun c hc => ((Memory.mem_erase m a c).1 hc).2, Memory.read_erase]
    split <;> rfl

theorem Memory.erase_pairwise (m : Memory) (a : Nat) (h : m.Pairwise fun c d => c.1 < d.1) :
    (m.erase a).Pairwise fun c d => c.1 < d.1 := by
  induction m with
  | nil => exact h
  | cons d m ih =>
    have ⟨hd, hm⟩ := List.pairwise_cons.1 h
    by_cases ha : d.1 = a
    · simpa [Memory.erase, ha] using ih hm
    · simp only [Memory.erase, ha, if_false]
      exact List.pairwise_cons.2 ⟨fun c hc => hd c ((Memory.mem_erase m a c).1 hc).1, ih hm⟩

theorem Memory.insert_pairwise (m : Memory) (a : Nat) (v : Byte) (h : m.Pairwise fun c d => c.1 < d.1)
    (ha : ∀ c ∈ m, c.1 ≠ a) : (m.insert a v).Pairwise fun c d => c.1 < d.1 := by
  induction m with
  | nil => simp [Memory.insert]
  | cons d m ih =>
    have ⟨hd, hm⟩ := List.pairwise_cons.1 h
    by_cases hlt : a < d.1
    · simp only [Memory.insert, hlt, if_true]
      refine List.pairwise_cons.2 ⟨fun c hc => ?_, h⟩
      obtain rfl | hc := List.mem_cons.1 hc
      · exact hlt
      · exact hlt.trans (hd c hc)
    · simp only [Memory.insert, hlt, if_false]
      refine List.pairwise_cons.2 ⟨fun c hc => ?_, ih hm fun c hc => ha c (List.mem_cons_of_mem _ hc)⟩
      obtain rfl | hc := (Memory.mem_insert m a v c).1 hc
      · have := ha d (by simp)
        show d.1 < a
        omega
      · exact hd c hc

/-- A write to an address that exists keeps the canonical form. -/
theorem Memory.write_wf (m : Memory) (a : Nat) (v : Byte) (ha : a < Config.memSize) (h : m.wf) :
    (m.write a v).wf := by
  have hp := Memory.erase_pairwise m a h.1
  have hne : ∀ c ∈ m.erase a, c.1 ≠ a := fun c hc => ((Memory.mem_erase m a c).1 hc).2
  have hin : ∀ c ∈ m.erase a, c.1 < Config.memSize ∧ c.2 ≠ Config.memInit := fun c hc =>
    h.2 c ((Memory.mem_erase m a c).1 hc).1
  unfold Memory.write
  split
  · exact ⟨hp, hin⟩
  · next hv =>
    refine ⟨Memory.insert_pairwise _ a v hp hne, fun c hc => ?_⟩
    obtain rfl | hc := (Memory.mem_insert _ a v c).1 hc
    · exact ⟨ha, hv⟩
    · exact hin c hc

theorem Memory.place_wf (bs : List Byte) (m : Memory) (a : Nat) (h : m.wf) : (m.place a bs).wf := by
  induction bs generalizing m a with
  | nil => exact h
  | cons b bs ih =>
    unfold Memory.place
    split
    · next ha => exact ih _ _ (Memory.write_wf m a b ha h)
    · exact ih _ _ h

/-- Placed bytes lie at their addresses; every other cell is as before. -/
theorem Memory.read_place (bs : List Byte) (m : Memory) (a b : Nat) (h : a + bs.length ≤ Config.memSize) :
    (m.place a bs).read b = if h : a ≤ b ∧ b < a + bs.length then bs[b - a]'(by omega) else m.read b := by
  induction bs generalizing m a with
  | nil =>
    simp [Memory.place]
  | cons v bs ih =>
    simp only [List.length_cons] at h
    have ha : a < Config.memSize := by omega
    simp only [Memory.place, ha, if_true]
    rw [ih (m.write a v) (a + 1) (by omega)]
    by_cases hab : a = b
    · subst hab
      simp
    · by_cases hin : a + 1 ≤ b ∧ b < a + 1 + bs.length
      · have h2 : a ≤ b ∧ b < a + (v :: bs).length := by simp; omega
        have h3 : b - a = (b - (a + 1)) + 1 := by omega
        rw [dif_pos hin, dif_pos h2]
        simp only [h3, List.getElem_cons_succ]
      · have h2 : ¬(a ≤ b ∧ b < a + (v :: bs).length) := by simp; omega
        rw [dif_neg hin, dif_neg h2, Memory.read_write, if_neg hab]

/-- The memory at reset is canonical: it lists nothing. -/
theorem State.reset_mem_wf : State.reset.mem.wf := by decide

end Sys2Proof.Machine
end

