-- ==== Sys2Proof/Laws/State.lean ====
section
/-! SUPPORT. One lemma per field per update of the state, so that no later proof unfolds a record update. -/

namespace Sys2Proof.Machine

@[simp] theorem State.setReg_reg (s : State) (i j : Fin 8) (v : Byte) :
    (s.setReg i v).reg j = if i = j then v else s.reg j := by
  simp [State.setReg, State.reg, Vector.getElem_set, Fin.ext_iff]

/-- Two register files with the same eight values are one. -/
theorem State.regs_ext (s t : State) (h : ∀ j, s.reg j = t.reg j) : s.regs = t.regs :=
  Vector.ext fun j hj => h ⟨j, hj⟩

@[simp] theorem State.setReg_pc (s : State) (i : Fin 8) (v : Byte) : (s.setReg i v).pc = s.pc := rfl
@[simp] theorem State.setReg_flags (s : State) (i : Fin 8) (v : Byte) : (s.setReg i v).flags = s.flags := rfl
@[simp] theorem State.setReg_mem (s : State) (i : Fin 8) (v : Byte) : (s.setReg i v).mem = s.mem := rfl
@[simp] theorem State.setReg_running (s : State) (i : Fin 8) (v : Byte) : (s.setReg i v).running = s.running := rfl
@[simp] theorem State.setReg_fault (s : State) (i : Fin 8) (v : Byte) : (s.setReg i v).fault = s.fault := rfl
@[simp] theorem State.setReg_out (s : State) (i : Fin 8) (v : Byte) : (s.setReg i v).out = s.out := rfl

@[simp] theorem State.setReg_sp (s : State) (i : Fin 8) (v : Byte) :
    (s.setReg i v).sp = if i = 7 then v else s.sp := State.setReg_reg s i 7 v

@[simp] theorem State.setSp_reg (s : State) (v : Byte) (j : Fin 8) :
    (s.setSp v).reg j = if 7 = j then v else s.reg j := State.setReg_reg s 7 j v
@[simp] theorem State.setSp_sp (s : State) (v : Byte) : (s.setSp v).sp = v := by simp [State.setSp]
@[simp] theorem State.setSp_pc (s : State) (v : Byte) : (s.setSp v).pc = s.pc := rfl
@[simp] theorem State.setSp_flags (s : State) (v : Byte) : (s.setSp v).flags = s.flags := rfl
@[simp] theorem State.setSp_mem (s : State) (v : Byte) : (s.setSp v).mem = s.mem := rfl
@[simp] theorem State.setSp_running (s : State) (v : Byte) : (s.setSp v).running = s.running := rfl
@[simp] theorem State.setSp_fault (s : State) (v : Byte) : (s.setSp v).fault = s.fault := rfl
@[simp] theorem State.setSp_out (s : State) (v : Byte) : (s.setSp v).out = s.out := rfl

@[simp] theorem State.setMem_regs (s : State) (m : Memory) : (s.setMem m).regs = s.regs := rfl
@[simp] theorem State.setMem_pc (s : State) (m : Memory) : (s.setMem m).pc = s.pc := rfl
@[simp] theorem State.setMem_flags (s : State) (m : Memory) : (s.setMem m).flags = s.flags := rfl
@[simp] theorem State.setMem_mem (s : State) (m : Memory) : (s.setMem m).mem = m := rfl
@[simp] theorem State.setMem_running (s : State) (m : Memory) : (s.setMem m).running = s.running := rfl
@[simp] theorem State.setMem_fault (s : State) (m : Memory) : (s.setMem m).fault = s.fault := rfl
@[simp] theorem State.setMem_out (s : State) (m : Memory) : (s.setMem m).out = s.out := rfl
@[simp] theorem State.setMem_reg (s : State) (m : Memory) (j : Fin 8) : (s.setMem m).reg j = s.reg j := rfl
@[simp] theorem State.setMem_sp (s : State) (m : Memory) : (s.setMem m).sp = s.sp := rfl

@[simp] theorem State.setPc_regs (s : State) (p : Pc) : (s.setPc p).regs = s.regs := rfl
@[simp] theorem State.setPc_pc (s : State) (p : Pc) : (s.setPc p).pc = p := rfl
@[simp] theorem State.setPc_flags (s : State) (p : Pc) : (s.setPc p).flags = s.flags := rfl
@[simp] theorem State.setPc_mem (s : State) (p : Pc) : (s.setPc p).mem = s.mem := rfl
@[simp] theorem State.setPc_running (s : State) (p : Pc) : (s.setPc p).running = s.running := rfl
@[simp] theorem State.setPc_fault (s : State) (p : Pc) : (s.setPc p).fault = s.fault := rfl
@[simp] theorem State.setPc_out (s : State) (p : Pc) : (s.setPc p).out = s.out := rfl
@[simp] theorem State.setPc_reg (s : State) (p : Pc) (j : Fin 8) : (s.setPc p).reg j = s.reg j := rfl
@[simp] theorem State.setPc_sp (s : State) (p : Pc) : (s.setPc p).sp = s.sp := rfl

@[simp] theorem State.setFlags_regs (s : State) (f : Flags) : (s.setFlags f).regs = s.regs := rfl
@[simp] theorem State.setFlags_pc (s : State) (f : Flags) : (s.setFlags f).pc = s.pc := rfl
@[simp] theorem State.setFlags_flags (s : State) (f : Flags) : (s.setFlags f).flags = f := rfl
@[simp] theorem State.setFlags_mem (s : State) (f : Flags) : (s.setFlags f).mem = s.mem := rfl
@[simp] theorem State.setFlags_running (s : State) (f : Flags) : (s.setFlags f).running = s.running := rfl
@[simp] theorem State.setFlags_fault (s : State) (f : Flags) : (s.setFlags f).fault = s.fault := rfl
@[simp] theorem State.setFlags_out (s : State) (f : Flags) : (s.setFlags f).out = s.out := rfl
@[simp] theorem State.setFlags_reg (s : State) (f : Flags) (j : Fin 8) : (s.setFlags f).reg j = s.reg j := rfl
@[simp] theorem State.setFlags_sp (s : State) (f : Flags) : (s.setFlags f).sp = s.sp := rfl

@[simp] theorem State.setRunning_regs (s : State) (b : Bool) : (s.setRunning b).regs = s.regs := rfl
@[simp] theorem State.setRunning_pc (s : State) (b : Bool) : (s.setRunning b).pc = s.pc := rfl
@[simp] theorem State.setRunning_flags (s : State) (b : Bool) : (s.setRunning b).flags = s.flags := rfl
@[simp] theorem State.setRunning_mem (s : State) (b : Bool) : (s.setRunning b).mem = s.mem := rfl
@[simp] theorem State.setRunning_running (s : State) (b : Bool) : (s.setRunning b).running = b := rfl
@[simp] theorem State.setRunning_fault (s : State) (b : Bool) : (s.setRunning b).fault = s.fault := rfl
@[simp] theorem State.setRunning_out (s : State) (b : Bool) : (s.setRunning b).out = s.out := rfl
@[simp] theorem State.setRunning_reg (s : State) (b : Bool) (j : Fin 8) : (s.setRunning b).reg j = s.reg j := rfl
@[simp] theorem State.setRunning_sp (s : State) (b : Bool) : (s.setRunning b).sp = s.sp := rfl

@[simp] theorem State.output_regs (s : State) (v : Byte) : (s.output v).regs = s.regs := rfl
@[simp] theorem State.output_pc (s : State) (v : Byte) : (s.output v).pc = s.pc := rfl
@[simp] theorem State.output_flags (s : State) (v : Byte) : (s.output v).flags = s.flags := rfl
@[simp] theorem State.output_mem (s : State) (v : Byte) : (s.output v).mem = s.mem := rfl
@[simp] theorem State.output_running (s : State) (v : Byte) : (s.output v).running = s.running := rfl
@[simp] theorem State.output_fault (s : State) (v : Byte) : (s.output v).fault = s.fault := rfl
@[simp] theorem State.output_out (s : State) (v : Byte) : (s.output v).out = s.out ++ [v] := rfl
@[simp] theorem State.output_reg (s : State) (v : Byte) (j : Fin 8) : (s.output v).reg j = s.reg j := rfl
@[simp] theorem State.output_sp (s : State) (v : Byte) : (s.output v).sp = s.sp := rfl

@[simp] theorem State.raise_regs (s : State) (k : ErrorKind) : (s.raise k).regs = s.regs := rfl
@[simp] theorem State.raise_pc (s : State) (k : ErrorKind) : (s.raise k).pc = s.pc := rfl
@[simp] theorem State.raise_flags (s : State) (k : ErrorKind) : (s.raise k).flags = s.flags := rfl
@[simp] theorem State.raise_mem (s : State) (k : ErrorKind) : (s.raise k).mem = s.mem := rfl
@[simp] theorem State.raise_running (s : State) (k : ErrorKind) : (s.raise k).running = false := rfl
@[simp] theorem State.raise_fault (s : State) (k : ErrorKind) : (s.raise k).fault = some k := rfl
@[simp] theorem State.raise_out (s : State) (k : ErrorKind) : (s.raise k).out = s.out := rfl
@[simp] theorem State.raise_reg (s : State) (k : ErrorKind) (j : Fin 8) : (s.raise k).reg j = s.reg j := rfl
@[simp] theorem State.raise_sp (s : State) (k : ErrorKind) : (s.raise k).sp = s.sp := rfl

@[simp] theorem State.applyReset_regs (s : State) : (s.applyReset).regs = State.reset.regs := rfl
@[simp] theorem State.applyReset_pc (s : State) : (s.applyReset).pc = State.reset.pc := rfl
@[simp] theorem State.applyReset_flags (s : State) : (s.applyReset).flags = State.reset.flags := rfl
@[simp] theorem State.applyReset_mem (s : State) : (s.applyReset).mem = s.mem := rfl
@[simp] theorem State.applyReset_running (s : State) : (s.applyReset).running = State.reset.running := rfl
@[simp] theorem State.applyReset_fault (s : State) : (s.applyReset).fault = State.reset.fault := rfl
@[simp] theorem State.applyReset_out (s : State) : (s.applyReset).out = State.reset.out := rfl

/-! The ALU result: a value changes one register, flags change the flags. -/

@[simp] theorem State.setAlu_pc (s : State) (a : Fin 8) (r : AluResult) : (s.setAlu a r).pc = s.pc := by
  cases r <;> rfl
@[simp] theorem State.setAlu_mem (s : State) (a : Fin 8) (r : AluResult) : (s.setAlu a r).mem = s.mem := by
  cases r <;> rfl
@[simp] theorem State.setAlu_running (s : State) (a : Fin 8) (r : AluResult) : (s.setAlu a r).running = s.running := by
  cases r <;> rfl
@[simp] theorem State.setAlu_fault (s : State) (a : Fin 8) (r : AluResult) : (s.setAlu a r).fault = s.fault := by
  cases r <;> rfl
@[simp] theorem State.setAlu_out (s : State) (a : Fin 8) (r : AluResult) : (s.setAlu a r).out = s.out := by
  cases r <;> rfl
@[simp] theorem State.setAlu_value (s : State) (a : Fin 8) (v : Byte) : s.setAlu a (.value v) = s.setReg a v := rfl
@[simp] theorem State.setAlu_flags_result (s : State) (a : Fin 8) (f : Flags) :
    s.setAlu a (.flags f) = s.setFlags f := rfl

end Sys2Proof.Machine
end

