-- ==== Sys2Proof/Laws/Ops.lean ====
section
/-! SUPPORT. One lemma per shared operation that says everything it can do, to be cited instead of unfolding it. -/

namespace Sys2Proof.Machine

/-! ### Sequencing of a handler -/

@[simp] theorem ok_bind {ε α β : Type} (a : α) (f : α → Except ε β) : (Except.ok a >>= f) = f a := rfl
@[simp] theorem error_bind {ε α β : Type} (e : ε) (f : α → Except ε β) :
    (Except.error e >>= f) = Except.error e := rfl

/-- A sequence succeeds exactly when both parts do. -/
theorem bind_ok {ε α β : Type} (x : Except ε α) (f : α → Except ε β) (b : β) :
    (x >>= f) = .ok b ↔ ∃ a, x = .ok a ∧ f a = .ok b := by
  cases x <;> simp

/-- A sequence raises exactly when its first failing part does. -/
theorem bind_error {ε α β : Type} (x : Except ε α) (f : α → Except ε β) (e : ε) :
    (x >>= f) = .error e ↔ x = .error e ∨ ∃ a, x = .ok a ∧ f a = .error e := by
  cases x <;> simp

/-! ### Register operands -/

/-- An operand byte up to 7 is the index of that register (30 R54). -/
theorem regIdx_of_lt (b : Byte) (h : b.toNat < 8) : regIdx b = .ok ⟨b.toNat, h⟩ := by
  simp [regIdx, h]

/-- An operand byte above 7 raises (30 R54). -/
theorem regIdx_of_ge (b : Byte) (h : 8 ≤ b.toNat) : regIdx b = .error .operandRange := by
  simp [regIdx, Nat.not_lt.2 h]

theorem regIdx_eq_ok (b : Byte) (i : Fin 8) : regIdx b = .ok i ↔ i.val = b.toNat := by
  unfold regIdx
  split
  · simp only [Except.ok.injEq, Fin.ext_iff]
    exact eq_comm
  · simp only [reduceCtorEq, false_iff]
    have := i.isLt
    omega

theorem regIdx_eq_error (b : Byte) (k : ErrorKind) :
    regIdx b = .error k ↔ 8 ≤ b.toNat ∧ k = .operandRange := by
  unfold regIdx
  split
  · simp only [reduceCtorEq, false_iff]
    omega
  · simp only [Except.error.injEq]
    constructor
    · rintro rfl
      exact ⟨by omega, rfl⟩
    · rintro ⟨-, rfl⟩
      rfl

/-- An operand byte is the index of a register, or raises. -/
theorem regIdx_cases (b : Byte) :
    (∃ d : Fin 8, b.toNat = d ∧ regIdx b = .ok d) ∨ (8 ≤ b.toNat ∧ regIdx b = .error .operandRange) := by
  by_cases h : b.toNat < 8
  · exact .inl ⟨⟨b.toNat, h⟩, rfl, regIdx_of_lt b h⟩
  · exact .inr ⟨by omega, regIdx_of_ge b (by omega)⟩

@[simp] theorem zext9_toNat (v : Byte) : (zext9 v).toNat = v.toNat := by
  have := v.isLt
  simp [zext9]
  omega

@[simp] theorem lowByte_toNat (p : Pc) : (lowByte p).toNat = p.toNat % 256 := by
  simp [lowByte]

/-! ### Memory accesses -/

/-- A read of a valid address answers its byte (20 R32). -/
theorem memRead_of_lt (s : State) (a : Nat) (h : a < 256) : memRead s a = .ok (s.mem.read a) := by
  have : ValidAddress (a : Int) := ⟨by omega, by omega⟩
  simp [memRead, this]

theorem memRead_eq_error (s : State) (addr : Int) (k : ErrorKind) :
    memRead s addr = .error k ↔ ¬ValidAddress addr ∧ k = .operandRange := by
  unfold memRead
  split
  · next h => simp [h]
  · next h => simp [h, eq_comm]

theorem memRead_eq_ok (s : State) (addr : Int) (v : Byte) :
    memRead s addr = .ok v ↔ ValidAddress addr ∧ s.mem.read addr.toNat = v := by
  unfold memRead
  split
  · next h => rw [and_iff_right h, Except.ok.injEq]
  · next h => simp only [reduceCtorEq, h, false_and]

/-- A write to a valid address changes the memory alone (20 R33). -/
theorem memWrite_of_lt (s : State) (a : Nat) (v : Byte) (h : a < 256) :
    memWrite s a v = .ok (s.setMem (s.mem.write a v)) := by
  have : ValidAddress (a : Int) := ⟨by omega, by omega⟩
  simp [memWrite, this]

theorem memWrite_eq_ok (s t : State) (addr : Int) (v : Byte) :
    memWrite s addr v = .ok t ↔ ValidAddress addr ∧ s.setMem (s.mem.write addr.toNat v) = t := by
  unfold memWrite
  split
  · next h => rw [and_iff_right h, Except.ok.injEq]
  · next h => simp only [reduceCtorEq, h, false_and]

theorem memWrite_eq_error (s : State) (addr : Int) (v : Byte) (k : ErrorKind) :
    memWrite s addr v = .error k ↔ ¬ValidAddress addr ∧ k = .operandRange := by
  unfold memWrite
  split
  · next h => simp [h]
  · next h => simp [h, eq_comm]

/-- The stack pointer is always a valid address for a read (43 R107). -/
@[simp] theorem memRead_byte (s : State) (a : Byte) : memRead s a.toNat = .ok (s.mem.read a.toNat) :=
  memRead_of_lt s _ a.isLt

/-- The stack pointer is always a valid address for a write (43 R106). -/
@[simp] theorem memWrite_byte (s : State) (a v : Byte) :
    memWrite s a.toNat v = .ok (s.setMem (s.mem.write a.toNat v)) :=
  memWrite_of_lt s _ v a.isLt

/-! ### The stack pointer -/

theorem decrementSp_of_ne (s : State) (h : s.sp ≠ 0#8) : decrementSp s = .ok (s.setSp (s.sp - 1#8)) := by
  simp [decrementSp, h]

theorem decrementSp_of_eq (s : State) (h : s.sp = 0#8) : decrementSp s = .error .operandRange := by
  simp [decrementSp, h]

theorem decrementSp_eq_ok (s t : State) :
    decrementSp s = .ok t ↔ s.sp ≠ 0#8 ∧ s.setSp (s.sp - 1#8) = t := by
  unfold decrementSp
  split
  · next h => simp [h]
  · next h => simp [h]

theorem decrementSp_eq_error (s : State) (k : ErrorKind) :
    decrementSp s = .error k ↔ s.sp = 0#8 ∧ k = .operandRange := by
  unfold decrementSp
  split
  · next h => simp [h, eq_comm]
  · next h => simp [h]

theorem incrementSp_of_ne (s : State) (h : s.sp ≠ 255#8) : incrementSp s = .ok (s.setSp (s.sp + 1#8)) := by
  simp [incrementSp, h]

theorem incrementSp_of_eq (s : State) (h : s.sp = 255#8) : incrementSp s = .error .operandRange := by
  simp [incrementSp, h]

theorem incrementSp_eq_ok (s t : State) :
    incrementSp s = .ok t ↔ s.sp ≠ 255#8 ∧ s.setSp (s.sp + 1#8) = t := by
  unfold incrementSp
  split
  · next h => simp [h]
  · next h => simp [h]

theorem incrementSp_eq_error (s : State) (k : ErrorKind) :
    incrementSp s = .error k ↔ s.sp = 255#8 ∧ k = .operandRange := by
  unfold incrementSp
  split
  · next h => simp [h, eq_comm]
  · next h => simp [h]

/-! ### The ALU -/

/-- The ALU does its three operations and raises on every other (42 R95, R102). -/
theorem alu_eq_ok (op : Mnemonic) (a b : Byte) (r : AluResult) :
    alu op a b = .ok r ↔
      (op = .multiply ∧ r = .value (a * b)) ∨ (op = .add ∧ r = .value (a + b)) ∨
        (op = .compare ∧ r = .flags (compareFlags a b)) := by
  cases op <;> simp [alu, eq_comm]

/-! ### Completing an instruction -/

/-- Everything completing an instruction can do: advance, keep the written pc, stop, or raise on the state before
(40 R75, R76; 60 R135). It always answers a next state. -/
theorem complete_eq_next (s t : State) (h : Except ErrorKind Handled) :
    complete s h = .next t ↔
      (∃ n u, h = .ok (.advance n u) ∧ (u.setPc (u.pc + BitVec.ofNat 9 n)).setRunning true = t) ∨
        (∃ u, h = .ok (.pcWritten u) ∧ u.setRunning true = t) ∨
        (∃ u, h = .ok (.stop u) ∧ u.setRunning false = t) ∨ ∃ k, h = .error k ∧ s.raise k = t := by
  rcases h with k | ⟨n, u⟩ | u | u <;> simp [complete]

@[simp] theorem complete_advance (s t : State) (n : Nat) :
    complete s (.ok (.advance n t)) = .next ((t.setPc (t.pc + BitVec.ofNat 9 n)).setRunning true) := rfl
@[simp] theorem complete_pcWritten (s t : State) :
    complete s (.ok (.pcWritten t)) = .next (t.setRunning true) := rfl
@[simp] theorem complete_stop (s t : State) : complete s (.ok (.stop t)) = .next (t.setRunning false) := rfl
@[simp] theorem complete_error (s : State) (k : ErrorKind) : complete s (.error k) = .next (s.raise k) := rfl

/-- Completing an instruction answers a next state, never a stop. -/
theorem complete_is_next (s : State) (h : Except ErrorKind Handled) : ∃ t, complete s h = .next t := by
  rcases h with k | ⟨n, u⟩ | u | u <;> exact ⟨_, rfl⟩

end Sys2Proof.Machine
end

