-- ==== Sys2Proof/Laws/PerInstr.lean ====
section
/-! SUPPORT. The statements made per instruction: the encoding of an instruction has the length of its format, begins
with its opcode byte, and holds its register operands among its operand bytes (spec/30_encoding.md R51, R56). -/

namespace Sys2Proof.Laws.EncodingShape

/-- The encoding of `i` fits its format (30 R51, R56). -/
def Statement (i : Instr) : Prop :=
  (encode i).length = i.mnemonic.format.length ∧ (encode i).head? = some i.mnemonic.opcode ∧
    i.registerOperands <+: (encode i).tail

theorem halt : Statement .halt :=
  ⟨rfl, rfl, by simp [Instr.registerOperands, encode, Instr.operandBytes]⟩

theorem loadImmediate (op1 op2 : Byte) : Statement (.loadImmediate op1 op2) :=
  ⟨rfl, rfl, by simp [Instr.registerOperands, encode, Instr.operandBytes]⟩

theorem printRegister (op1 : Byte) : Statement (.printRegister op1) :=
  ⟨rfl, rfl, by simp [Instr.registerOperands, encode, Instr.operandBytes]⟩

theorem multiply (op1 op2 : Byte) : Statement (.multiply op1 op2) :=
  ⟨rfl, rfl, by simp [Instr.registerOperands, encode, Instr.operandBytes]⟩

theorem add (op1 op2 : Byte) : Statement (.add op1 op2) :=
  ⟨rfl, rfl, by simp [Instr.registerOperands, encode, Instr.operandBytes]⟩

theorem compare (op1 op2 : Byte) : Statement (.compare op1 op2) :=
  ⟨rfl, rfl, by simp [Instr.registerOperands, encode, Instr.operandBytes]⟩

theorem push (op1 : Byte) : Statement (.push op1) :=
  ⟨rfl, rfl, by simp [Instr.registerOperands, encode, Instr.operandBytes]⟩

theorem pop (op1 : Byte) : Statement (.pop op1) :=
  ⟨rfl, rfl, by simp [Instr.registerOperands, encode, Instr.operandBytes]⟩

theorem call (op1 : Byte) : Statement (.call op1) :=
  ⟨rfl, rfl, by simp [Instr.registerOperands, encode, Instr.operandBytes]⟩

theorem ret : Statement .ret :=
  ⟨rfl, rfl, by simp [Instr.registerOperands, encode, Instr.operandBytes]⟩

theorem jump (op1 : Byte) : Statement (.jump op1) :=
  ⟨rfl, rfl, by simp [Instr.registerOperands, encode, Instr.operandBytes]⟩

theorem jumpIfEqual (op1 : Byte) : Statement (.jumpIfEqual op1) :=
  ⟨rfl, rfl, by simp [Instr.registerOperands, encode, Instr.operandBytes]⟩

theorem jumpIfNotEqual (op1 : Byte) : Statement (.jumpIfNotEqual op1) :=
  ⟨rfl, rfl, by simp [Instr.registerOperands, encode, Instr.operandBytes]⟩

end Sys2Proof.Laws.EncodingShape
end

