-- ==== Sys2Proof/Laws/Step.lean ====
section
/-! SUPPORT. What fetching and stepping can do, said once. -/

namespace Sys2Proof.Machine

/-- The window is read exactly where its three addresses exist, `pc` at most 253; otherwise the fetch raises
(40 R71, R72). -/
theorem fetchWindow_eq (s : State) :
    fetchWindow s =
      if s.pc.toNat ≤ 253 then
        .ok (s.mem.read s.pc.toNat, s.mem.read (s.pc.toNat + 1), s.mem.read (s.pc.toNat + 2))
      else .error .operandRange := by
  have e1 : ((s.pc.toNat : Int) + 1) = ((s.pc.toNat + 1 : Nat) : Int) := by omega
  have e2 : ((s.pc.toNat : Int) + 2) = ((s.pc.toNat + 2 : Nat) : Int) := by omega
  unfold fetchWindow
  rw [e1, e2]
  split
  · next h =>
    rw [memRead_of_lt s _ (by omega), memRead_of_lt s _ (by omega), memRead_of_lt s _ (by omega)]
    rfl
  · next h =>
    have bad : memRead s ((s.pc.toNat + 2 : Nat) : Int) = .error .operandRange :=
      (memRead_eq_error s _ _).2 ⟨fun hv => h (by have := hv.2; omega), rfl⟩
    rw [bad]
    cases h0 : memRead s (s.pc.toNat : Int) with
    | error k => rw [((memRead_eq_error s _ k).1 h0).2]; rfl
    | ok b0 =>
      cases h1 : memRead s ((s.pc.toNat + 1 : Nat) : Int) with
      | error k => rw [((memRead_eq_error s _ k).1 h1).2]; rfl
      | ok b1 => rfl

/-- The fetch and the decode together (40 R71 to R73; 60 R137). -/
theorem fetch_eq (s : State) :
    fetch s =
      if s.pc.toNat ≤ 253 then
        match decodeWindow (s.mem.read s.pc.toNat) (s.mem.read (s.pc.toNat + 1)) (s.mem.read (s.pc.toNat + 2)) with
        | some i => .ok i
        | none => .error .unknownOpcode
      else .error .operandRange := by
  unfold fetch
  rw [fetchWindow_eq]
  split
  · rfl
  · rfl

/-- Everything a step that answers a next state can be: the fetched instruction's own, or the raise of the fetch's or
the decoder's error (40 R70). -/
theorem step_eq_next (s t : State) :
    step s = .next t ↔
      s.running = true ∧
        ((∃ i, fetch s = .ok i ∧ exec i s = .next t) ∨ ∃ k, fetch s = .error k ∧ s.raise k = t) := by
  unfold step
  cases hr : s.running with
  | false => simp
  | true => cases hf : fetch s <;> simp

end Sys2Proof.Machine
end

