-- ==== Sys2Proof/Tests/Slice0.lean ====
section
/-! SUPPORT. The model's own tests: ill-formed terms refused, instruction words written out from spec/30_encoding.md R56,
vectors of spec/95_test_vectors.md (each test names its vector; the expected results are the spec's), and one witness for the
hypotheses of each statement of Certificates/Slice0/Obligations.lean, with one for each of its clauses. -/

namespace Sys2Proof.Tests

open Sys2Proof.Machine

/-! ### Helpers -/

/-- The reset state with other registers, flags and `pc`, and bytes at `pc`. -/
def at_ (pc : Pc) (regs : List (Fin 8 × Byte)) (flags : Flags) (bytes : List Byte) : State :=
  let s := regs.foldl (fun s (i, v) => s.setReg i v) (State.reset.setPc pc)
  (s.setFlags flags).setMem (Memory.place [] pc.toNat bytes)

/-- The same with one more byte of memory. -/
def withByte (s : State) (a : Nat) (v : Byte) : State := s.setMem (s.mem.write a v)

/-- The state a step goes to. -/
def after (s : State) : Option State :=
  match step s with
  | .next t => some t
  | _ => none

/-- No flag set. -/
def f0 : Flags := ⟨false, false, false⟩
/-- Equal. -/
def fE : Flags := ⟨true, false, false⟩
/-- Less. -/
def fL : Flags := ⟨false, true, false⟩
/-- Greater. -/
def fG : Flags := ⟨false, false, true⟩

/-! ### Well-formedness: an ill-formed term for each register operand, refused -/

theorem test_wellFormed_all_seven : (Instr.add 7 7).WellFormed := by decide
theorem test_wellFormed_immediate_unchecked : (Instr.loadImmediate 7 255).WellFormed := by decide
theorem test_illFormed_loadImmediate : ¬(Instr.loadImmediate 8 0).WellFormed := by decide
theorem test_illFormed_printRegister : ¬(Instr.printRegister 8).WellFormed := by decide
theorem test_illFormed_multiply_a : ¬(Instr.multiply 8 0).WellFormed := by decide
theorem test_illFormed_multiply_b : ¬(Instr.multiply 0 8).WellFormed := by decide
theorem test_illFormed_add_a : ¬(Instr.add 255 0).WellFormed := by decide
theorem test_illFormed_add_b : ¬(Instr.add 0 255).WellFormed := by decide
theorem test_illFormed_compare_a : ¬(Instr.compare 8 0).WellFormed := by decide
theorem test_illFormed_compare_b : ¬(Instr.compare 0 8).WellFormed := by decide
theorem test_illFormed_push : ¬(Instr.push 8).WellFormed := by decide
theorem test_illFormed_pop : ¬(Instr.pop 8).WellFormed := by decide
theorem test_illFormed_call : ¬(Instr.call 8).WellFormed := by decide
theorem test_illFormed_jump : ¬(Instr.jump 8).WellFormed := by decide
theorem test_illFormed_jumpIfEqual : ¬(Instr.jumpIfEqual 8).WellFormed := by decide
theorem test_illFormed_jumpIfNotEqual : ¬(Instr.jumpIfNotEqual 8).WellFormed := by decide

/-! ### Decoding: the "opcode binary" column of 30 R56, with operand bytes that tell op1 from op2 -/

theorem test_decode_halt : decode [0b00000001#8, 0x11#8, 0x22#8] = .ok .halt := rfl
theorem test_decode_loadImmediate :
    decode [0b10000010#8, 0x03#8, 0xA5#8] = .ok (.loadImmediate 0x03#8 0xA5#8) := rfl
theorem test_decode_printRegister : decode [0b01000111#8, 0x05#8, 0x22#8] = .ok (.printRegister 0x05#8) := rfl
theorem test_decode_multiply : decode [0b10100010#8, 0x01#8, 0x02#8] = .ok (.multiply 0x01#8 0x02#8) := rfl
theorem test_decode_add : decode [0b10100000#8, 0x06#8, 0x07#8] = .ok (.add 0x06#8 0x07#8) := rfl
theorem test_decode_compare : decode [0b10100111#8, 0x04#8, 0x03#8] = .ok (.compare 0x04#8 0x03#8) := rfl
theorem test_decode_push : decode [0b01000101#8, 0x07#8, 0x22#8] = .ok (.push 0x07#8) := rfl
theorem test_decode_pop : decode [0b01000110#8, 0x06#8, 0x22#8] = .ok (.pop 0x06#8) := rfl
theorem test_decode_call : decode [0b01010000#8, 0x01#8, 0x22#8] = .ok (.call 0x01#8) := rfl
theorem test_decode_ret : decode [0b00010001#8, 0x11#8, 0x22#8] = .ok .ret := rfl
theorem test_decode_jump : decode [0b01010100#8, 0x02#8, 0x22#8] = .ok (.jump 0x02#8) := rfl
theorem test_decode_jumpIfEqual : decode [0b01010101#8, 0x02#8, 0x22#8] = .ok (.jumpIfEqual 0x02#8) := rfl
theorem test_decode_jumpIfNotEqual :
    decode [0b01010110#8, 0x02#8, 0x22#8] = .ok (.jumpIfNotEqual 0x02#8) := rfl
/-- A register byte above 7 is no other encoding (30 R59). -/
theorem test_decode_keeps_operand_byte : decode [0x45#8, 0x0F#8, 0x00#8] = .ok (.push 0x0F#8) := rfl
theorem test_decode_short : decode [0x01#8, 0x00#8] = .error (.shortWindow 2) := rfl
/-- The layout of the first lines of the program file of 30 R62. -/
theorem test_encode_program :
    [Instr.loadImmediate 0 8, .printRegister 0, .halt].flatMap encode =
      [0b10000010#8, 0#8, 0b00001000#8, 0b01000111#8, 0#8, 0b00000001#8] := by decide
/-- The table's own number for `LDI R3,0xA5`: opcode in bits 23:16, op1 in 15:8, op2 in 7:0. -/
theorem test_tableWord : decodeTableWord 24 0x8203A5 = some (.loadImmediate 3 0xA5#8) := rfl
theorem test_withFetchWord : fetch (State.reset.withFetchWord 24 0x8203A5) = .ok (.loadImmediate 3 0xA5#8) := rfl

/-! ### One step: vectors of 95, part 2 -/

/-- V2: the bytes after HALT are ignored. -/
theorem test_halt_v2 : (after (at_ 0x10 [] f0 [0x01, 0xFF, 0xFF])).map (fun t => (t.pc, t.running, t.fault)) =
    some (0x10, false, none) := by decide
/-- V44: HALT at 254 faults at the fetch. -/
theorem test_halt_v44 : (after (at_ 254 [] f0 [0x01])).map (fun t => (t.pc, t.running, t.fault)) =
    some (254, false, some .operandRange) := by decide
/-- V4: R7 is an ordinary register. -/
theorem test_loadImmediate_v4 : (after (at_ 0x10 [] f0 [0x82, 0x07, 0x80])).map (fun t => (t.reg 7, t.pc)) =
    some (0x80, 0x13) := by decide
/-- V48: from 253 the pc goes to 256, no wrap. -/
theorem test_loadImmediate_v48 : (after (at_ 253 [] f0 [0x82, 0x02, 0x07])).map (fun t => (t.reg 2, t.pc.toNat)) =
    some (7, 256) := by decide
/-- V9: PRN R7 emits the stack pointer. -/
theorem test_printRegister_v9 : (after (at_ 0x10 [] f0 [0x47, 0x07, 0x99])).map (fun t => (t.out, t.pc)) =
    some ([244], 0x12) := by decide
/-- V10: register 8 emits nothing. -/
theorem test_printRegister_v10 : (after (at_ 0x10 [] f0 [0x47, 0x08])).map (fun t => (t.out, t.pc, t.fault)) =
    some ([], 0x10, some .operandRange) := by decide
/-- V13: 65025 mod 256. -/
theorem test_multiply_v13 :
    (after (at_ 0x10 [(0, 255), (1, 255)] fL [0xA2, 0x00, 0x01])).map (fun t => (t.reg 0, t.pc, t.flags)) =
      some (1, 0x13, fL) := by decide
/-- V14: the same register twice, 256 mod 256. -/
theorem test_multiply_v14 : (after (at_ 0x10 [(4, 16)] f0 [0xA2, 0x04, 0x04])).map (fun t => t.reg 4) =
    some 0 := by decide
/-- V18: 300 mod 256, into register A. -/
theorem test_add_v18 :
    (after (at_ 0x10 [(2, 200), (3, 100)] f0 [0xA0, 0x02, 0x03])).map (fun t => (t.reg 2, t.reg 3)) =
      some (44, 100) := by decide
/-- V19b: ADD wraps R7 without a fault. -/
theorem test_add_v19b :
    (after (at_ 0x10 [(0, 0x10)] f0 [0xA0, 0x07, 0x00])).map (fun t => (t.reg 7, t.fault)) =
      some (0x04, none) := by decide
/-- V23: the comparison is unsigned. -/
theorem test_compare_v23 : (after (at_ 0x10 [(0, 0), (1, 255)] f0 [0xA7, 0x00, 0x01])).map (fun t => t.flags) =
    some fL := by decide
/-- V24: 128 is greater than 127. -/
theorem test_compare_v24 : (after (at_ 0x10 [(0, 128), (1, 127)] f0 [0xA7, 0x00, 0x01])).map (fun t => t.flags) =
    some fG := by decide
/-- V31: PUSH R7 stores the decremented pointer. -/
theorem test_push_v31 : (after (at_ 0x10 [] f0 [0x45, 0x07])).map (fun t => (t.reg 7, t.mem.read 0xF3)) =
    some (0xF3, 0xF3) := by decide
/-- V33: PUSH at 0 changes nothing. -/
theorem test_push_v33 :
    (after (at_ 0x10 [(7, 0), (2, 9)] f0 [0x45, 0x02])).map (fun t => (t.reg 7, t.pc, t.mem.read 255, t.fault)) =
      some (0, 0x10, 0, some .operandRange) := by decide
/-- V37: POP R7 ends with the popped value plus one. -/
theorem test_pop_v37 :
    (after (withByte (at_ 0x10 [(7, 0xF3)] f0 [0x46, 0x07]) 0xF3 0x20)).map (fun t => t.reg 7) =
      some 0x21 := by decide
/-- V36: POP at 255 leaves the register. -/
theorem test_pop_v36 :
    (after (withByte (at_ 0x10 [(7, 0xFF), (0, 1)] f0 [0x46, 0x00]) 0xFF 9)).map (fun t => (t.reg 0, t.reg 7, t.fault)) =
      some (1, 0xFF, some .operandRange) := by decide
/-- V51: the largest return address. -/
theorem test_call_v51 :
    (after (at_ 253 [(1, 0)] f0 [0x50, 0x01])).map (fun t => (t.pc, t.mem.read 0xF3)) = some (0, 255) := by decide
/-- V52: CALL R7 jumps to the decremented pointer. -/
theorem test_call_v52 :
    (after (at_ 0 [] f0 [0x50, 0x07])).map (fun t => (t.reg 7, t.mem.read 0xF3, t.pc)) =
      some (0xF3, 2, 0xF3) := by decide
/-- V57: RETURN without CALL. -/
theorem test_ret_v57 :
    (after (withByte (at_ 0 [] f0 [0x11]) 0xF4 0x30)).map (fun t => (t.pc, t.reg 7)) = some (0x30, 0xF5) := by decide
/-- V56: RETURN at 255 raises. -/
theorem test_ret_v56 :
    (after (at_ 0x10 [(7, 0xFF)] f0 [0x11])).map (fun t => (t.pc, t.reg 7, t.fault)) =
      some (0x10, 0xFF, some .operandRange) := by decide
/-- V59: a jump to itself is not advanced. -/
theorem test_jump_v59 : (after (at_ 0x10 [(0, 0x10)] f0 [0x54, 0x00])).map (fun t => (t.pc, t.running)) =
    some (0x10, true) := by decide
/-- V60: 254 is accepted as a target. -/
theorem test_jump_v60 : (after (at_ 0x10 [(0, 254)] f0 [0x54, 0x00])).map (fun t => (t.pc, t.fault)) =
    some (254, none) := by decide
/-- V62: taken with Equal set. -/
theorem test_jumpIfEqual_v62 : (after (at_ 14 [(2, 17)] fE [0x55, 0x02])).map (fun t => (t.pc, t.flags)) =
    some (17, fE) := by decide
/-- V68: register 9 faults although the jump is not taken. -/
theorem test_jumpIfEqual_v68 : (after (at_ 0x10 [] f0 [0x55, 0x09])).map (fun t => (t.pc, t.fault)) =
    some (0x10, some .operandRange) := by decide
/-- V65: not taken with Equal set. -/
theorem test_jumpIfNotEqual_v65 : (after (at_ 12 [(2, 17)] fE [0x56, 0x02])).map (fun t => t.pc) = some 14 := by
  decide
/-- V66: taken with Greater set. -/
theorem test_jumpIfNotEqual_v66 : (after (at_ 12 [(2, 17)] fG [0x56, 0x02])).map (fun t => t.pc) = some 17 := by
  decide
/-- V41: a byte that looks like an ALU opcode is unknown. -/
theorem test_unknown_v41 : (after (at_ 0x10 [] f0 [0xA1, 0x00, 0x01])).map (fun t => (t.pc, t.fault)) =
    some (0x10, some .unknownOpcode) := by decide
/-- V46: at 254 the fetch fault comes before the unknown opcode. -/
theorem test_unknown_v46 : (after (at_ 254 [] f0 [0x00])).map (fun t => t.fault) = some (some .operandRange) := by
  decide
/-- V28: with both operands out of range the kind is the same, nothing changes (60 R137). -/
theorem test_range_v28 : (after (at_ 0x10 [] f0 [0xA2, 0x09, 0x08])).map (fun t => (t.pc, t.running, t.fault)) =
    some (0x10, false, some .operandRange) := by decide
/-- P9a: from reset with nothing loaded the first step ends the run. -/
theorem test_reset_p9a : (after State.reset).map (fun t => (t.pc, t.fault, t.out)) =
    some (0, some .unknownOpcode, []) := by decide
/-- A step from a terminal state does not exist (40 R77). -/
theorem test_terminal : after (State.reset.setRunning false) = none := by decide
/-- Writing `MEM_INIT` removes the cell, so equal memories are equal data. -/
theorem test_memory_canonical : (Memory.write (Memory.write [] 5 7) 5 0 : Memory) = [] := by decide
theorem test_launch : (launch [0x01, 0x02]).toOption.map (fun s => (s.mem.read 1, s.mem.read 2, s.pc)) =
    some (2, 0, 0) := by decide
theorem test_trace_before_execution :
    (tracePort (at_ 3 [] f0 [0x82, 0x00, 0x05])).map (fun r => (r.b0, r.op1, r.op2, r.regs[0])) =
      some (0x82, 0, 5, 0) := by decide

/-! ### Witnesses: each statement's hypotheses are met together, and each clause has its own -/

theorem witness_DecodeIffWindowBeginsWithEncoding :
    decode [0x11#8, 0xFF#8, 0xFF#8] = .ok .ret ∧ encode .ret <+: [0x11#8, 0xFF#8, 0xFF#8] := ⟨rfl, by decide⟩
theorem witness_OpcodeByteAloneSelects : decodeOpcode 0x01 = some .halt ∧ decodeOpcode 0x00 = none := by decide
theorem witness_OtherOpcodesAreUnknown :
    decodeWindow 0xA1 0 0 = none ∧ decodeWindow 0xA0 0 0 = some (.add 0 0) := by decide
theorem witness_IgnoredWindowBytes_z :
    (at_ 253 [] f0 [0x11]).pc.toNat ≤ 253 ∧
      decodeOpcode ((at_ 253 [] f0 [0x11]).mem.read 253) = some .ret ∧ Mnemonic.ret.format = .z := by decide
theorem witness_IgnoredWindowBytes_r :
    (at_ 253 [] f0 [0x47, 0x07]).pc.toNat ≤ 253 ∧
      decodeOpcode ((at_ 253 [] f0 [0x47, 0x07]).mem.read 253) = some .printRegister ∧
      Mnemonic.printRegister.format = .r := by decide
theorem witness_StepRunsDecodedInstruction :
    (at_ 253 [] f0 [0x82, 0x07, 0xFF]).running = true ∧ (at_ 253 [] f0 [0x82, 0x07, 0xFF]).pc.toNat ≤ 253 ∧
      decode [(at_ 253 [] f0 [0x82, 0x07, 0xFF]).mem.read 253, (at_ 253 [] f0 [0x82, 0x07, 0xFF]).mem.read 254,
        (at_ 253 [] f0 [0x82, 0x07, 0xFF]).mem.read 255] = .ok (.loadImmediate 7 255) := ⟨by decide, by decide, rfl⟩
theorem witness_FetchPastMemoryRaises_254 : (at_ 254 [] f0 [0x01]).running = true ∧
    254 ≤ (at_ 254 [] f0 [0x01]).pc.toNat := by decide
theorem witness_FetchPastMemoryRaises_256 : (at_ 256 [] f0 []).running = true ∧
    254 ≤ (at_ 256 [] f0 []).pc.toNat := by decide
theorem witness_UnknownOpcodeEndsTheRun : (at_ 253 [] f0 [0xFF]).running = true ∧
    (at_ 253 [] f0 [0xFF]).pc.toNat ≤ 253 ∧ ∀ m : Mnemonic, (at_ 253 [] f0 [0xFF]).mem.read 253 ≠ m.opcode :=
  ⟨by decide, by decide, fun m => by cases m <;> decide⟩
theorem witness_StepExists_terminal : (State.reset.raise .operandRange).running = false := by decide
theorem witness_StepExists_running : State.reset.running = true := by decide
theorem witness_RegisterOperandAboveSeven_first : ¬(Instr.jumpIfEqual 8).WellFormed := by decide
theorem witness_RegisterOperandAboveSeven_second : ¬(Instr.add 7 8).WellFormed := by decide

theorem witness_LoadImmediateWritesRegister : (7 : Byte).toNat = (7 : Fin 8) := by decide
theorem witness_PrintRegisterEmitsValue : (0 : Byte).toNat = (0 : Fin 8) := by decide
theorem witness_AluResultsWrapModulo256 : (7 : Byte).toNat = (7 : Fin 8) ∧ (0 : Byte).toNat = (0 : Fin 8) := by decide
theorem witness_CompareSetsExactlyOneFlag_equal : (7 : Byte).toNat = (7 : Fin 8) ∧
    State.reset.regs[(7 : Fin 8)].toNat = State.reset.regs[(7 : Fin 8)].toNat := by decide
theorem witness_CompareSetsExactlyOneFlag_less : (0 : Byte).toNat = (0 : Fin 8) ∧ (7 : Byte).toNat = (7 : Fin 8) ∧
    State.reset.regs[(0 : Fin 8)].toNat < State.reset.regs[(7 : Fin 8)].toNat := by decide
theorem witness_CompareSetsExactlyOneFlag_greater : (7 : Byte).toNat = (7 : Fin 8) ∧ (0 : Byte).toNat = (0 : Fin 8) ∧
    State.reset.regs[(0 : Fin 8)].toNat < State.reset.regs[(7 : Fin 8)].toNat := by decide
theorem witness_PushStores_lowest : (7 : Byte).toNat = (7 : Fin 8) ∧ (at_ 0 [(7, 1)] f0 []).regs[7] ≠ 0#8 := by decide
theorem witness_PushStores_zero : (0 : Byte).toNat = (0 : Fin 8) ∧ (at_ 0 [(7, 0)] f0 []).regs[7] = 0#8 := by decide
theorem witness_PopLoads_other : (0 : Byte).toNat = (0 : Fin 8) ∧ (0 : Fin 8) ≠ 7 ∧
    (at_ 0 [(7, 254)] f0 []).regs[7] ≠ 255#8 := by decide
theorem witness_PopLoads_other_at_255 : (6 : Byte).toNat = (6 : Fin 8) ∧ (6 : Fin 8) ≠ 7 ∧
    (at_ 0 [(7, 255)] f0 []).regs[7] = 255#8 := by decide
theorem witness_PopLoads_r7 : (7 : Byte).toNat = (7 : Fin 8) ∧
    (withByte (at_ 0 [(7, 255)] f0 []) 255 254).mem.read
      (withByte (at_ 0 [(7, 255)] f0 []) 255 254).regs[7].toNat ≠ 255#8 := by decide
theorem witness_PopLoads_r7_popping_255 : (7 : Byte).toNat = (7 : Fin 8) ∧
    (withByte (at_ 0 [] f0 []) 0xF4 255).mem.read (withByte (at_ 0 [] f0 []) 0xF4 255).regs[7].toNat = 255#8 := by
  decide
theorem witness_CallPushes_lowest : (7 : Byte).toNat = (7 : Fin 8) ∧ (at_ 253 [(7, 1)] f0 []).pc.toNat ≤ 253 ∧
    (at_ 253 [(7, 1)] f0 []).regs[7] ≠ 0#8 := by decide
theorem witness_CallPushes_zero : (0 : Byte).toNat = (0 : Fin 8) ∧ (at_ 253 [(7, 0)] f0 []).pc.toNat ≤ 253 ∧
    (at_ 253 [(7, 0)] f0 []).regs[7] = 0#8 := by decide
theorem witness_ReturnPops_below_255 : (at_ 0 [(7, 254)] f0 []).regs[7] ≠ 255#8 := by decide
theorem witness_ReturnPops_at_255 : (at_ 0 [(7, 255)] f0 []).regs[7] = 255#8 := by decide
theorem witness_JumpSetsProgramCounter : (7 : Byte).toNat = (7 : Fin 8) := by decide
theorem witness_JumpIfEqual_taken : (7 : Byte).toNat = (7 : Fin 8) ∧ (at_ 0 [] fE []).flags.e = true := by decide
theorem witness_JumpIfEqual_notTaken : (7 : Byte).toNat = (7 : Fin 8) ∧ (at_ 0 [] fG []).flags.e = false := by decide
theorem witness_JumpIfNotEqual_taken : (0 : Byte).toNat = (0 : Fin 8) ∧ (at_ 0 [] fL []).flags.e = false := by decide
theorem witness_JumpIfNotEqual_notTaken : (0 : Byte).toNat = (0 : Fin 8) ∧ (at_ 0 [] fE []).flags.e = true := by decide

theorem witness_InstructionsComplete_conditionalJump : (Instr.jumpIfNotEqual 7).WellFormed := by decide
theorem witness_InstructionsComplete_decrement : (Instr.call 7).WellFormed ∧
    (at_ 0 [(7, 1)] f0 []).regs[7] ≠ 0#8 := by decide
theorem witness_InstructionsComplete_increment : (Instr.pop 6).WellFormed ∧ Instr.pop 6 ≠ .pop 7 ∧
    (at_ 0 [(7, 254)] f0 []).regs[7] ≠ 255#8 := by decide
theorem witness_InstructionsComplete_pop_r7 : (Instr.pop 7).WellFormed ∧
    (withByte (at_ 0 [(7, 255)] f0 []) 255 254).mem.read
      (withByte (at_ 0 [(7, 255)] f0 []) 255 254).regs[7].toNat ≠ 255#8 := by decide

/-- The frames' hypothesis, that `exec` answers a next state, is met by a normal completion of each instruction named. -/
theorem witness_RegisterWritersFrame :
    (∃ t, exec (.loadImmediate 7 255) State.reset = .next t) ∧ (∃ t, exec (.multiply 7 0) State.reset = .next t) ∧
      ∃ t, exec (.add 7 0) State.reset = .next t := ⟨⟨_, rfl⟩, ⟨_, rfl⟩, ⟨_, rfl⟩⟩
theorem witness_RegisterWritersFrame_raise : ∃ t, exec (.add 7 8) State.reset = .next t ∧ t.running = false :=
  ⟨_, rfl, rfl⟩
theorem witness_NothingStoredFrame :
    (∃ t, exec .halt State.reset = .next t) ∧ (∃ t, exec (.printRegister 7) State.reset = .next t) ∧
      (∃ t, exec (.compare 7 0) State.reset = .next t) ∧ (∃ t, exec (.jump 7) State.reset = .next t) ∧
      (∃ t, exec (.jumpIfEqual 7) State.reset = .next t) ∧ ∃ t, exec (.jumpIfNotEqual 7) State.reset = .next t :=
  ⟨⟨_, rfl⟩, ⟨_, rfl⟩, ⟨_, rfl⟩, ⟨_, rfl⟩, ⟨_, rfl⟩, ⟨_, rfl⟩⟩
theorem witness_StoringInstructionsFrame :
    (∃ t, exec (.push 7) State.reset = .next t ∧ t.running = true) ∧
      ∃ t, exec (.call 7) State.reset = .next t ∧ t.running = true := ⟨⟨_, rfl, rfl⟩, ⟨_, rfl, rfl⟩⟩
theorem witness_StoringInstructionsFrame_raise :
    ∃ t, exec (.push 8) State.reset = .next t ∧ t.running = false := ⟨_, rfl, rfl⟩
theorem witness_PoppingInstructionsFrame :
    (∃ t, exec (.pop 0) State.reset = .next t ∧ t.running = true) ∧
      ∃ t, exec .ret State.reset = .next t ∧ t.running = true := ⟨⟨_, rfl, rfl⟩, ⟨_, rfl, rfl⟩⟩
theorem witness_PoppingInstructionsFrame_raise :
    ∃ t, exec .ret (at_ 0 [(7, 255)] f0 []) = .next t ∧ t.running = false := ⟨_, rfl, rfl⟩

/-- A state with a set flag, a written cell and the last `pc` an instruction is fetched from. -/
theorem witness_EveryStepKeepsInvariant :
    (withByte (at_ 253 [(7, 1)] fL [0x50, 0x07]) 0 5).Inv ∧
      ∃ t, step (withByte (at_ 253 [(7, 1)] fL [0x50, 0x07]) 0 5) = .next t :=
  ⟨⟨by decide, by decide, by decide, by decide, by decide⟩, _, rfl⟩
theorem witness_Flags_otherInstructions :
    (∃ t, exec (.add 7 7) (at_ 0 [] fG []) = .next t) ∧ (Instr.add 7 7).mnemonic ≠ .compare ∧
      (Instr.add 7 7).mnemonic ≠ .jumpIfEqual ∧ (Instr.add 7 7).mnemonic ≠ .jumpIfNotEqual :=
  ⟨⟨_, rfl⟩, by decide, by decide, by decide⟩
theorem witness_Flags_compare : (7 : Byte).toNat = (7 : Fin 8) ∧ (0 : Byte).toNat = (0 : Fin 8) := by decide
theorem witness_Flags_conditionalJumps :
    (∃ t, exec (.jumpIfNotEqual 7) (at_ 0 [] fG []) = .next t) ∧
      (Instr.jumpIfNotEqual 7).mnemonic = .jumpIfNotEqual ∧ fL.e = (at_ 0 [] fG []).flags.e :=
  ⟨⟨_, rfl⟩, rfl, rfl⟩
theorem witness_LessAndGreaterInfluenceNothing :
    ∃ t, Steps 2 (at_ 0 [] fG [0x82, 0x00, 0x05, 0x55, 0x00]) t ∧ t.pc = 5 := ⟨_, ⟨_, rfl, _, rfl, rfl⟩, rfl⟩
theorem witness_EveryErrorIsPrecise :
    State.reset.fault = none ∧ ∃ t, step State.reset = .next t ∧ t.fault = some .unknownOpcode := ⟨rfl, _, rfl, rfl⟩
theorem witness_OnlyHaltEndsNormally :
    (at_ 253 [] f0 [0x01]).fault = none ∧ ∃ t, step (at_ 253 [] f0 [0x01]) = .next t ∧ t.EndedNormally :=
  ⟨rfl, _, rfl, rfl, rfl⟩
theorem witness_OperandRange_fetch : (at_ 254 [] f0 []).running = true ∧ (at_ 254 [] f0 []).fault = none ∧
    254 ≤ (at_ 254 [] f0 []).pc.toNat := by decide
theorem witness_OperandRange_operand : fetch (at_ 0 [] f0 [0xA0, 0x07, 0x08]) = .ok (.add 7 8) ∧
    ∃ b ∈ (Instr.add 7 8).registerOperands, 7 < b.toNat := ⟨rfl, 8, by decide, by decide⟩
theorem witness_OperandRange_decrement :
    fetch (at_ 0 [(7, 0)] f0 [0x50, 0x00]) = .ok (.call 0) ∧ (at_ 0 [(7, 0)] f0 [0x50, 0x00]).regs[7] = 0#8 :=
  ⟨rfl, rfl⟩
theorem witness_OperandRange_increment :
    fetch (at_ 0 [(7, 255)] f0 [0x46, 0x06]) = .ok (.pop 6) ∧ Instr.pop 6 ≠ .pop 7 ∧
      (at_ 0 [(7, 255)] f0 [0x46, 0x06]).regs[7] = 255#8 := ⟨rfl, by decide, rfl⟩
theorem witness_OperandRange_pop_r7 :
    fetch (withByte (at_ 0 [] f0 [0x46, 0x07]) 0xF4 255) = .ok (.pop 7) ∧
      (withByte (at_ 0 [] f0 [0x46, 0x07]) 0xF4 255).mem.read
        (withByte (at_ 0 [] f0 [0x46, 0x07]) 0xF4 255).regs[7].toNat = 255#8 := ⟨rfl, rfl⟩
theorem witness_NoStepFollowsAnError :
    (at_ 254 [] f0 []).fault = none ∧ ∃ t, step (at_ 254 [] f0 []) = .next t ∧ t.fault = some .operandRange :=
  ⟨rfl, _, rfl, rfl⟩
theorem witness_UnsupportedAluOperationIsUnreachable :
    ∃ t, Steps 1 { State.reset with mem := [(0, 0xA0#8), (1, 0x07#8)] } t ∧ t.pc = 3 := ⟨_, ⟨_, rfl, rfl⟩, rfl⟩
theorem witness_OnlyPushAndCallChangeMemory :
    ∃ t, step (at_ 0 [] f0 [0x45, 0x07]) = .next t ∧ t.mem.read 0xF3 ≠ (at_ 0 [] f0 [0x45, 0x07]).mem.read 0xF3 :=
  ⟨_, rfl, by decide⟩
theorem witness_OutputGrowsOnlyByPrintRegister :
    ∃ t, step (at_ 0 [] f0 [0x47, 0x07]) = .next t ∧ t.out = [0xF4#8] := ⟨_, rfl, rfl⟩
theorem witness_ProgramCounter_completes :
    (at_ 253 [] f0 []).pc.toNat ≤ 253 ∧ (at_ 253 [] f0 []).fault = none ∧
      ∃ t, exec (.loadImmediate 0 0) (at_ 253 [] f0 []) = .next t ∧ t.fault = none := ⟨by decide, rfl, _, rfl, rfl⟩
theorem witness_ProgramCounter_raises :
    (at_ 253 [] f0 []).fault = none ∧ ∃ t, exec (.push 8) (at_ 253 [] f0 []) = .next t ∧ t.fault ≠ none :=
  ⟨rfl, _, rfl, by decide⟩
theorem witness_ConditionalJumpsAreComplements : ∃ t, exec (.jumpIfEqual 7) (at_ 0 [] fE []) = .next t := ⟨_, rfl⟩
theorem witness_PushThenPopRoundTrips_r7 : (7 : Byte).toNat = (7 : Fin 8) ∧ (at_ 0 [(7, 1)] f0 []).regs[7] ≠ 0#8 := by
  decide
theorem witness_PushThenPopRoundTrips_other : (0 : Byte).toNat = (0 : Fin 8) ∧
    (at_ 0 [(7, 255)] f0 []).regs[7] ≠ 0#8 := by decide
theorem witness_ReturnResumesAfterCall :
    (at_ 253 [] f0 []).pc.toNat ≤ 253 ∧ ∃ t, exec (.call 1) (at_ 253 [] f0 []) = .next t ∧ t.running = true ∧
      t.regs[7] = 0xF3#8 ∧ t.mem.read 0xF3 = 255#8 := ⟨by decide, _, rfl, rfl, rfl, rfl⟩
theorem witness_FetchSeesStackWrite :
    (0 : Byte).toNat = (0 : Fin 8) ∧ (0 : Fin 8) ≠ 7 ∧ (at_ 6 [(7, 9), (0, 1)] f0 []).regs[7] ≠ 0#8 ∧
      ∃ t, exec (.push 0) (at_ 6 [(7, 9), (0, 1)] f0 []) = .next t ∧ t.pc.toNat ≤ 253 ∧
        t.pc.toNat = t.regs[7].toNat := ⟨by decide, by decide, by decide, _, rfl, by decide, by decide⟩
theorem witness_MemoryAccessContract_outside : ((-1 : Int) < 0 ∨ 255 < (-1 : Int)) ∧ ((256 : Int) < 0 ∨ 255 < (256 : Int)) := by
  decide
theorem witness_MemoryAccessContract_inside : (0 ≤ (0 : Int) ∧ (0 : Int) ≤ 255) ∧ 0 ≤ (255 : Int) ∧ (255 : Int) ≤ 255 := by
  decide
theorem witness_LaunchPlacesProgramFromZero_fits : (List.replicate 256 (0xFF : Byte)).length ≤ 256 := by
  rw [List.length_replicate]
theorem witness_LaunchPlacesProgramFromZero_tooLong : 256 < (List.replicate 257 (0xFF : Byte)).length := by
  rw [List.length_replicate]; decide
theorem witness_TracePort_fetches : (at_ 253 [] f0 []).running = true ∧ (at_ 253 [] f0 []).pc.toNat ≤ 253 := by decide
theorem witness_TracePort_faults : (at_ 254 [] f0 []).running = true ∧ 254 ≤ (at_ 254 [] f0 []).pc.toNat := by decide

end Sys2Proof.Tests
end

/-! What executing one instruction can do, said once: a relation for normal completion and one for the conditions of
OperandRangeError, both tied to `exec` by `exec_eq_next`. -/

namespace Sys2Proof.Machine

/-- `Completes i s t`: from `s`, the instruction `i` completes normally in `t`. One constructor per instruction (41
R85 to R87, 42 R96 to R98, 43 R106, R107, 44 R114 to R122); operand bytes are named with the registers they index. -/
inductive Completes : Instr → State → State → Prop
  | halt {s : State} : Completes .halt s (s.setRunning false)
  | loadImmediate {s : State} {op1 op2 : Byte} {d : Fin 8} (hd : op1.toNat = d) :
      Completes (.loadImmediate op1 op2) s (((s.setReg d op2).setPc (s.pc + 3#9)).setRunning true)
  | printRegister {s : State} {op1 : Byte} {r : Fin 8} (hr : op1.toNat = r) :
      Completes (.printRegister op1) s (((s.output (s.reg r)).setPc (s.pc + 2#9)).setRunning true)
  | multiply {s : State} {op1 op2 : Byte} {a b : Fin 8} (ha : op1.toNat = a) (hb : op2.toNat = b) :
      Completes (.multiply op1 op2) s (((s.setReg a (s.reg a * s.reg b)).setPc (s.pc + 3#9)).setRunning true)
  | add {s : State} {op1 op2 : Byte} {a b : Fin 8} (ha : op1.toNat = a) (hb : op2.toNat = b) :
      Completes (.add op1 op2) s (((s.setReg a (s.reg a + s.reg b)).setPc (s.pc + 3#9)).setRunning true)
  | compare {s : State} {op1 op2 : Byte} {a b : Fin 8} (ha : op1.toNat = a) (hb : op2.toNat = b) :
      Completes (.compare op1 op2) s
        (((s.setFlags (compareFlags (s.reg a) (s.reg b))).setPc (s.pc + 3#9)).setRunning true)
  | push {s : State} {op1 : Byte} {r : Fin 8} (hr : op1.toNat = r) (hsp : s.sp ≠ 0#8) :
      Completes (.push op1) s
        ((((s.setSp (s.sp - 1#8)).setMem
          (s.mem.write (s.sp - 1#8).toNat ((s.setSp (s.sp - 1#8)).reg r))).setPc (s.pc + 2#9)).setRunning true)
  | pop {s : State} {op1 : Byte} {d : Fin 8} (hd : op1.toNat = d)
      (hsp : (s.setReg d (s.mem.read s.sp.toNat)).sp ≠ 255#8) :
      Completes (.pop op1) s
        ((((s.setReg d (s.mem.read s.sp.toNat)).setSp
          ((s.setReg d (s.mem.read s.sp.toNat)).sp + 1#8)).setPc (s.pc + 2#9)).setRunning true)
  | call {s : State} {op1 : Byte} {r : Fin 8} (hr : op1.toNat = r) (hsp : s.sp ≠ 0#8) :
      Completes (.call op1) s
        ((((s.setSp (s.sp - 1#8)).setMem
          (s.mem.write (s.sp - 1#8).toNat (lowByte (s.pc + 2#9)))).setPc
            (zext9 ((s.setSp (s.sp - 1#8)).reg r))).setRunning true)
  | ret {s : State} (hsp : s.sp ≠ 255#8) :
      Completes .ret s (((s.setSp (s.sp + 1#8)).setPc (zext9 (s.mem.read s.sp.toNat))).setRunning true)
  | jump {s : State} {op1 : Byte} {r : Fin 8} (hr : op1.toNat = r) :
      Completes (.jump op1) s ((s.setPc (zext9 (s.reg r))).setRunning true)
  | jumpIfEqual {s : State} {op1 : Byte} {r : Fin 8} (hr : op1.toNat = r) :
      Completes (.jumpIfEqual op1) s
        ((s.setPc (if s.flags.e then zext9 (s.reg r) else s.pc + 2#9)).setRunning true)
  | jumpIfNotEqual {s : State} {op1 : Byte} {r : Fin 8} (hr : op1.toNat = r) :
      Completes (.jumpIfNotEqual op1) s
        ((s.setPc (if s.flags.e then s.pc + 2#9 else zext9 (s.reg r))).setRunning true)

/-- `Raises i s`: executing `i` from `s` raises OperandRangeError (60 R133 b to e). -/
inductive Raises : Instr → State → Prop
  | operand {i : Instr} {s : State} {b : Byte} (hb : b ∈ i.registerOperands) (h : 8 ≤ b.toNat) : Raises i s
  | push {s : State} {op1 : Byte} (hsp : s.sp = 0#8) : Raises (.push op1) s
  | pop {s : State} {op1 : Byte} {d : Fin 8} (hd : op1.toNat = d)
      (hsp : (s.setReg d (s.mem.read s.sp.toNat)).sp = 255#8) :
      Raises (.pop op1) s
  | call {s : State} {op1 : Byte} (hsp : s.sp = 0#8) : Raises (.call op1) s
  | ret {s : State} (hsp : s.sp = 255#8) : Raises .ret s

variable {i : Instr} {s t : State} {op1 op2 : Byte}

theorem regIdx_of_eq {b : Byte} {d : Fin 8} (h : b.toNat = d) : regIdx b = .ok d := (regIdx_eq_ok b d).2 h.symm

/-- The ALU handler checks both operands before it computes anything (60 R137). -/
theorem aluHandler_of_ge (op : Mnemonic) (s : State) (h : 8 ≤ op1.toNat ∨ 8 ≤ op2.toNat) :
    aluHandler op op1 op2 s = .error .operandRange := by
  obtain ⟨d, hd, hi⟩ | ⟨-, hi⟩ := regIdx_cases op1
  · have h2 : 8 ≤ op2.toNat := h.resolve_left (by omega)
    simp [aluHandler, hi, regIdx_of_ge _ h2]
  · simp [aluHandler, hi]

/-- With both operands in range the ALU handler is the ALU on the two registers. -/
theorem aluHandler_of_eq (op : Mnemonic) (s : State) {a b : Fin 8} (ha : op1.toNat = a) (hb : op2.toNat = b) :
    aluHandler op op1 op2 s = (alu op (s.reg a) (s.reg b) >>= fun r => .ok (.advance 3 (s.setAlu a r))) := by
  simp [aluHandler, regIdx_of_eq ha, regIdx_of_eq hb]

theorem Completes.exec_eq (hc : Completes i s t) : exec i s = .next t := by
  cases hc with
  | halt => rfl
  | loadImmediate hd => simp [exec, execLoadImmediate, regIdx_of_eq hd]
  | printRegister hr => simp [exec, execPrintRegister, regIdx_of_eq hr]
  | multiply ha hb => simp [exec, execMultiply, aluHandler_of_eq _ _ ha hb, alu]
  | add ha hb => simp [exec, execAdd, aluHandler_of_eq _ _ ha hb, alu]
  | compare ha hb => simp [exec, execCompare, aluHandler_of_eq _ _ ha hb, alu]
  | push hr hsp => simp [exec, execPush, regIdx_of_eq hr, decrementSp_of_ne s hsp, -BitVec.toNat_sub]
  | pop hd hsp => simp [exec, execPop, regIdx_of_eq hd, incrementSp_of_ne _ hsp]
  | call hr hsp => simp [exec, execCall, regIdx_of_eq hr, decrementSp_of_ne s hsp, -BitVec.toNat_sub]
  | ret hsp => simp [exec, execReturn, incrementSp_of_ne s hsp]
  | jump hr => simp [exec, execJump, regIdx_of_eq hr]
  | jumpIfEqual hr => cases he : s.flags.e <;> simp [exec, execJumpIfEqual, jumpWhen, regIdx_of_eq hr, he]
  | jumpIfNotEqual hr => cases he : s.flags.e <;> simp [exec, execJumpIfNotEqual, jumpWhen, regIdx_of_eq hr, he]

/-- A register operand above 7 raises, for every instruction that names one (30 R54). -/
theorem exec_of_operand_ge {b : Byte} (hb : b ∈ i.registerOperands) (h : 8 ≤ b.toNat) :
    exec i s = .next (s.raise .operandRange) := by
  have hi := regIdx_of_ge b h
  cases i with
  | halt | ret => simp [Instr.registerOperands] at hb
  | loadImmediate op1 op2 | printRegister op1 | push op1 | pop op1 | call op1 | jump op1 | jumpIfEqual op1
  | jumpIfNotEqual op1 =>
    obtain rfl : b = op1 := List.mem_singleton.1 hb
    simp [exec, execLoadImmediate, execPrintRegister, execPush, execPop, execCall, execJump, execJumpIfEqual,
      execJumpIfNotEqual, jumpWhen, hi]
  | multiply op1 op2 | add op1 op2 | compare op1 op2 =>
    have hop : 8 ≤ op1.toNat ∨ 8 ≤ op2.toNat := by
      obtain rfl | rfl : b = op1 ∨ b = op2 := by simpa [Instr.registerOperands] using hb
      · exact .inl h
      · exact .inr h
    simp [exec, execMultiply, execAdd, execCompare, aluHandler_of_ge _ s hop]

theorem Raises.exec_eq (hr : Raises i s) : exec i s = .next (s.raise .operandRange) := by
  cases hr with
  | operand hb h => exact exec_of_operand_ge hb h
  | @push _ op1 hsp =>
    obtain ⟨r, -, hi⟩ | ⟨-, hi⟩ := regIdx_cases op1 <;> simp [exec, execPush, hi, decrementSp_of_eq s hsp]
  | @call _ op1 hsp =>
    obtain ⟨r, -, hi⟩ | ⟨-, hi⟩ := regIdx_cases op1 <;> simp [exec, execCall, hi, decrementSp_of_eq s hsp]
  | pop hd hsp => simp [exec, execPop, regIdx_of_eq hd, incrementSp_of_eq _ hsp]
  | ret hsp => simp [exec, execReturn, incrementSp_of_eq s hsp]

/-- An operand byte indexes a register, or the instruction that names it raises (30 R54). -/
theorem register_or_raises (s : State) {b : Byte} (hb : b ∈ i.registerOperands) :
    (∃ d : Fin 8, b.toNat = d) ∨ Raises i s := by
  obtain ⟨d, hd, -⟩ | ⟨h, -⟩ := regIdx_cases b
  · exact .inl ⟨d, hd⟩
  · exact .inr (.operand hb h)

theorem completes_or_raises (i : Instr) (s : State) : (∃ t, Completes i s t) ∨ Raises i s := by
  have operand {b : Byte} (hb : b ∈ i.registerOperands) := register_or_raises s hb
  cases i with
  | halt => exact .inl ⟨_, .halt⟩
  | loadImmediate op1 op2 => exact (operand (.head _)).imp_left fun ⟨_, hd⟩ => ⟨_, .loadImmediate hd⟩
  | printRegister op1 => exact (operand (.head _)).imp_left fun ⟨_, hr⟩ => ⟨_, .printRegister hr⟩
  | multiply op1 op2 =>
    obtain ⟨a, ha⟩ | hr := operand (.head _)
    · exact (operand (.tail _ (.head _))).imp_left fun ⟨_, hb⟩ => ⟨_, .multiply ha hb⟩
    · exact .inr hr
  | add op1 op2 =>
    obtain ⟨a, ha⟩ | hr := operand (.head _)
    · exact (operand (.tail _ (.head _))).imp_left fun ⟨_, hb⟩ => ⟨_, .add ha hb⟩
    · exact .inr hr
  | compare op1 op2 =>
    obtain ⟨a, ha⟩ | hr := operand (.head _)
    · exact (operand (.tail _ (.head _))).imp_left fun ⟨_, hb⟩ => ⟨_, .compare ha hb⟩
    · exact .inr hr
  | push op1 =>
    by_cases hsp : s.sp = 0#8
    · exact .inr (.push hsp)
    · exact (operand (.head _)).imp_left fun ⟨_, hr⟩ => ⟨_, .push hr hsp⟩
  | pop op1 =>
    obtain ⟨d, hd⟩ | hr := operand (.head _)
    · by_cases hsp : (s.setReg d (s.mem.read s.sp.toNat)).sp = 255#8
      · exact .inr (.pop hd hsp)
      · exact .inl ⟨_, .pop hd hsp⟩
    · exact .inr hr
  | call op1 =>
    by_cases hsp : s.sp = 0#8
    · exact .inr (.call hsp)
    · exact (operand (.head _)).imp_left fun ⟨_, hr⟩ => ⟨_, .call hr hsp⟩
  | ret =>
    by_cases hsp : s.sp = 255#8
    · exact .inr (.ret hsp)
    · exact .inl ⟨_, .ret hsp⟩
  | jump op1 => exact (operand (.head _)).imp_left fun ⟨_, hr⟩ => ⟨_, .jump hr⟩
  | jumpIfEqual op1 => exact (operand (.head _)).imp_left fun ⟨_, hr⟩ => ⟨_, .jumpIfEqual hr⟩
  | jumpIfNotEqual op1 => exact (operand (.head _)).imp_left fun ⟨_, hr⟩ => ⟨_, .jumpIfNotEqual hr⟩

/-- Everything executing an instruction can do: complete, or raise OperandRangeError on the state before it. -/
theorem exec_eq_next : exec i s = .next t ↔ Completes i s t ∨ (Raises i s ∧ s.raise .operandRange = t) := by
  constructor
  · intro h
    obtain ⟨u, hc⟩ | hr := completes_or_raises i s
    · obtain rfl : u = t := by simpa [h] using hc.exec_eq.symm
      exact .inl hc
    · exact .inr ⟨hr, by simpa [h] using hr.exec_eq.symm⟩
  · rintro (hc | ⟨hr, rfl⟩)
    · exact hc.exec_eq
    · exact hr.exec_eq

/-! ### What a completing instruction leaves unchanged, field by field -/

/-- The registers an instruction may write: its destination, and R7 where it moves the stack pointer (10 R11, R12). -/
def MayWrite : Instr → Fin 8 → Prop
  | .loadImmediate op1 _, j | .multiply op1 _, j | .add op1 _, j => op1.toNat = j
  | .pop op1, j => op1.toNat = j ∨ j = 7
  | .push _, j | .call _, j | .ret, j => j = 7
  | .halt, _ | .printRegister _, _ | .compare _ _, _ | .jump _, _ | .jumpIfEqual _, _ | .jumpIfNotEqual _, _ => False

theorem setReg_reg_of_ne {d j : Fin 8} {b v : Byte} (hd : b.toNat = d) (hj : b.toNat ≠ j) :
    (s.setReg d v).reg j = s.reg j := by
  have hdj : d ≠ j := fun h => hj (h ▸ hd)
  simp [hdj]

theorem setSp_reg_of_ne {j : Fin 8} (v : Byte) (hj : j ≠ 7) : (s.setSp v).reg j = s.reg j := by
  simp [Ne.symm hj]

namespace Completes

/-- A register the instruction may not write is as before. -/
theorem reg_eq (hc : Completes i s t) {j : Fin 8} (hj : ¬MayWrite i j) : t.reg j = s.reg j := by
  cases hc with
  | halt | printRegister | compare | jump | jumpIfEqual | jumpIfNotEqual => rfl
  | loadImmediate hd => exact setReg_reg_of_ne hd hj
  | multiply ha | add ha => exact setReg_reg_of_ne ha hj
  | push hr hsp | call hr hsp | ret hsp => exact setSp_reg_of_ne _ hj
  | pop hd hsp =>
    obtain ⟨hj1, hj7⟩ := not_or.1 hj
    exact (setSp_reg_of_ne _ hj7).trans (setReg_reg_of_ne hd hj1)

theorem fault_eq (hc : Completes i s t) : t.fault = s.fault := by cases hc <;> rfl

/-- The continuation flag is 0 for HALT alone (40 R76). -/
theorem running_eq (hc : Completes i s t) : t.running = (i != .halt) := by cases hc <;> rfl

theorem flags_eq (hc : Completes i s t) (hi : i.mnemonic ≠ .compare) : t.flags = s.flags := by
  cases hc with
  | compare => exact absurd rfl hi
  | _ => rfl

theorem out_eq (hc : Completes i s t) (hi : i.mnemonic ≠ .printRegister) : t.out = s.out := by
  cases hc with
  | printRegister => exact absurd rfl hi
  | _ => rfl

theorem mem_eq (hc : Completes i s t) (hpush : i.mnemonic ≠ .push) (hcall : i.mnemonic ≠ .call) : t.mem = s.mem := by
  cases hc with
  | push => exact absurd rfl hpush
  | call => exact absurd rfl hcall
  | _ => rfl

/-- Memory is as before but for one write at the decremented stack pointer (20 R35, 43 R106, 44 R114). -/
theorem mem_eq_or_write (hc : Completes i s t) :
    t.mem = s.mem ∨ ∃ v, t.mem = s.mem.write (s.sp - 1#8).toNat v := by
  cases hc with
  | push | call => exact .inr ⟨_, rfl⟩
  | _ => exact .inl rfl

/-- Only the byte at the decremented stack pointer can change. -/
theorem mem_read_eq (hc : Completes i s t) {a : Nat} (ha : a ≠ (s.sp - 1#8).toNat) :
    t.mem.read a = s.mem.read a := by
  obtain h | ⟨v, h⟩ := hc.mem_eq_or_write
  · rw [h]
  · rw [h, Memory.read_write, if_neg ha.symm]

end Completes

/-- The outcome table of COMPARE (42 R99, R101). -/
theorem compareFlags_eq (a b : Byte) :
    compareFlags a b = if a.toNat = b.toNat then ⟨true, false, false⟩
      else if a.toNat < b.toNat then ⟨false, true, false⟩ else ⟨false, false, true⟩ := by
  unfold compareFlags
  split_ifs with heq hlt
  · simp [BitVec.toNat_inj.1 heq]
  · have hne : a ≠ b := fun h => heq (h ▸ rfl)
    simp [hne, BitVec.lt_def, hlt, hlt.le]
  · have hne : a ≠ b := fun h => heq (h ▸ rfl)
    have hgt : b.toNat < a.toNat := by omega
    simp [hne, BitVec.lt_def, hlt, hgt]

theorem compareFlags_atMostOne (a b : Byte) : (compareFlags a b).AtMostOne := by
  rw [compareFlags_eq]
  split_ifs
  · exact .inr (.inl rfl)
  · exact .inr (.inr (.inl rfl))
  · exact .inr (.inr (.inr rfl))

/-! ### The invariant -/

/-- From a fetched instruction's `pc` a sum with an instruction length does not wrap (10 R14). -/
theorem pc_add_toNat {p : Pc} (hp : p.toNat ≤ 253) {n : Nat} (hn : n ≤ 3) :
    (p + BitVec.ofNat 9 n).toNat = p.toNat + n := by
  rw [BitVec.toNat_add, BitVec.toNat_ofNat]
  omega

theorem zext9_le (v : Byte) : (zext9 v).toNat ≤ 256 := by
  have := v.isLt
  rw [zext9_toNat]
  omega

namespace Completes

theorem mem_wf (hc : Completes i s t) (hs : s.mem.wf) : t.mem.wf := by
  obtain h | ⟨v, h⟩ := hc.mem_eq_or_write
  · rwa [h]
  · rw [h]
    exact Memory.write_wf _ _ v (s.sp - 1#8).isLt hs

/-- `pc` stays at most 256 (10 R14, the spec's decision D2). -/
theorem pc_le (hc : Completes i s t) (hs : s.pc.toNat ≤ 253) : t.pc.toNat ≤ 256 := by
  have two := (pc_add_toNat hs (n := 2) (by omega)).trans_le (by omega : _ ≤ 256)
  have three := (pc_add_toNat hs (n := 3) (by omega)).trans_le (by omega : _ ≤ 256)
  cases hc with
  | halt => exact hs.trans (by omega)
  | loadImmediate | multiply | add | compare => exact three
  | printRegister | push | pop => exact two
  | call | ret | jump => exact zext9_le _
  | jumpIfEqual =>
    rw [State.setRunning_pc, State.setPc_pc]
    split
    · exact zext9_le _
    · exact two
  | jumpIfNotEqual =>
    rw [State.setRunning_pc, State.setPc_pc]
    split
    · exact two
    · exact zext9_le _

theorem flags_atMostOne (hc : Completes i s t) (hs : s.flags.AtMostOne) : t.flags.AtMostOne := by
  cases hc with
  | compare => exact compareFlags_atMostOne _ _
  | _ => exact hs

/-- Completing an instruction fetched in a running state keeps the invariant. -/
theorem inv (hc : Completes i s t) (hs : s.Inv) (hrun : s.running = true) (hpc : s.pc.toNat ≤ 253) : t.Inv := by
  have hnone : t.fault = none := by
    rw [hc.fault_eq]
    by_contra hf
    simp [hs.fault hf] at hrun
  exact
    { mem := hc.mem_wf hs.mem
      pc := hc.pc_le hpc
      flags := hc.flags_atMostOne hs.flags
      fault := fun hf => absurd hnone hf
      alu := by simp [hnone] }

end Completes

/-- Raising any error but the ALU's keeps the invariant. -/
theorem raise_inv {k : ErrorKind} (hs : s.Inv) (hk : k ≠ .unsupportedAluOperation) : (s.raise k).Inv where
  mem := hs.mem
  pc := hs.pc
  flags := hs.flags
  fault _ := rfl
  alu := by simpa using hk

theorem pc_le_of_fetch_eq_ok (h : fetch s = .ok i) : s.pc.toNat ≤ 253 := by
  by_contra hpc
  simp [fetch_eq, hpc] at h

/-- The fetch and the decoder raise only their own two errors (40 R72, R73). -/
theorem fetch_error_ne_unsupportedAluOperation {k : ErrorKind} (h : fetch s = .error k) :
    k ≠ .unsupportedAluOperation := by
  rintro rfl
  rw [fetch_eq] at h
  split at h
  · split at h <;> simp at h
  · simp at h

/-- Settles O28, from the inversion of the step: the fetched instruction completes or raises, or the fetch raises. -/
theorem everyStepKeepsInvariant : Obligations.EveryStepKeepsInvariant := by
  intro s t hs h
  obtain ⟨hrun, ⟨i, hf, he⟩ | ⟨k, hf, rfl⟩⟩ := (step_eq_next s t).1 h
  · obtain hc | ⟨-, rfl⟩ := exec_eq_next.1 he
    · exact hc.inv hs hrun (pc_le_of_fetch_eq_ok hf)
    · exact raise_inv hs (by decide)
  · exact raise_inv hs (fetch_error_ne_unsupportedAluOperation hf)

/-- Settles O27: nothing is listed in memory, no flag is set and nothing has faulted. -/
theorem resetMeetsInvariant : Obligations.ResetMeetsInvariant where
  mem := State.reset_mem_wf
  pc := by decide
  flags := .inl rfl
  fault h := absurd rfl h
  alu := by decide

/-! ### The frames -/

/-- Settles O23: a completion by its frame lemmas, since none of the three is a COMPARE, a PRINT_REGISTER or a stack
write; a raise leaves all but `running` and `fault`. -/
theorem registerWritersFrame : Obligations.RegisterWritersFrame := by
  intro s t op1 op2 i hi h
  obtain hc | ⟨-, rfl⟩ := exec_eq_next.1 h
  · have hj (j : Fin 8) (hj : j.val ≠ op1.toNat) : ¬MayWrite i j := by
      obtain rfl | rfl | rfl := hi <;> exact hj.symm
    obtain ⟨hcmp, hprn, hpush, hcall, hhalt⟩ : i.mnemonic ≠ .compare ∧ i.mnemonic ≠ .printRegister ∧
        i.mnemonic ≠ .push ∧ i.mnemonic ≠ .call ∧ (i != .halt) = true := by
      obtain rfl | rfl | rfl := hi <;> simp [Instr.mnemonic]
    have hmem := hc.mem_eq hpush hcall
    exact ⟨fun j h => hc.reg_eq (hj j h), hc.flags_eq hcmp, fun _ => by rw [hmem], hc.out_eq hprn,
      .inl ⟨hc.running_eq.trans hhalt, hc.fault_eq⟩⟩
  · exact ⟨fun _ _ => rfl, rfl, fun _ => rfl, rfl, .inr ⟨rfl, rfl, rfl, rfl⟩⟩

/-- Settles O24: a completion writes no register and no memory; a raise leaves all but `running` and `fault`. -/
theorem nothingStoredFrame : Obligations.NothingStoredFrame := by
  intro s t op1 op2 i hi h
  obtain hc | ⟨-, rfl⟩ := exec_eq_next.1 h
  · have hj (j : Fin 8) : ¬MayWrite i j := by
      obtain rfl | rfl | rfl | rfl | rfl | rfl := hi <;> exact id
    obtain ⟨hcmp, hprn, hpush, hcall⟩ : (i ≠ .compare op1 op2 → i.mnemonic ≠ .compare) ∧
        (i ≠ .printRegister op1 → i.mnemonic ≠ .printRegister) ∧ i.mnemonic ≠ .push ∧ i.mnemonic ≠ .call := by
      obtain rfl | rfl | rfl | rfl | rfl | rfl := hi <;> simp [Instr.mnemonic]
    have hmem := hc.mem_eq hpush hcall
    exact ⟨fun j => hc.reg_eq (hj j), fun _ => by rw [hmem], fun hne => hc.flags_eq (hcmp hne),
      fun hne => hc.out_eq (hprn hne), .inl ⟨hc.running_eq, hc.fault_eq⟩⟩
  · exact ⟨fun _ => rfl, fun _ => rfl, fun _ => rfl, fun _ => rfl, .inr ⟨rfl, rfl, rfl, rfl, rfl⟩⟩

/-- Settles O25: a completion writes R7 and the byte at the decremented stack pointer; a raise leaves all but `running`
and `fault`. -/
theorem storingInstructionsFrame : Obligations.StoringInstructionsFrame := by
  intro s t op1 i hi h
  obtain hc | ⟨-, rfl⟩ := exec_eq_next.1 h
  · have hj (j : Fin 8) (hj : j ≠ 7) : ¬MayWrite i j := by
      obtain rfl | rfl := hi <;> exact hj
    obtain ⟨hcmp, hprn, hhalt⟩ : i.mnemonic ≠ .compare ∧ i.mnemonic ≠ .printRegister ∧ (i != .halt) = true := by
      obtain rfl | rfl := hi <;> simp [Instr.mnemonic]
    exact ⟨fun j h => hc.reg_eq (hj j h), hc.flags_eq hcmp, hc.out_eq hprn, fun _ ha => hc.mem_read_eq ha,
      .inl ⟨hc.running_eq.trans hhalt, hc.fault_eq⟩⟩
  · exact ⟨fun _ _ => rfl, rfl, rfl, fun _ _ => rfl, .inr ⟨rfl, rfl, rfl, fun _ => rfl, rfl⟩⟩

/-- Settles O26: a completion writes POP's destination and R7; a raise leaves all but `running` and `fault`. -/
theorem poppingInstructionsFrame : Obligations.PoppingInstructionsFrame := by
  intro s t op1 i hi h
  obtain hc | ⟨-, rfl⟩ := exec_eq_next.1 h
  · have hj (j : Fin 8) (h7 : j ≠ 7) (hd : i = .pop op1 → j.val ≠ op1.toNat) : ¬MayWrite i j := by
      obtain rfl | rfl := hi
      · exact not_or.2 ⟨(hd rfl).symm, h7⟩
      · exact h7
    obtain ⟨hcmp, hprn, hpush, hcall, hhalt⟩ : i.mnemonic ≠ .compare ∧ i.mnemonic ≠ .printRegister ∧
        i.mnemonic ≠ .push ∧ i.mnemonic ≠ .call ∧ (i != .halt) = true := by
      obtain rfl | rfl := hi <;> simp [Instr.mnemonic]
    have hmem := hc.mem_eq hpush hcall
    exact ⟨fun j h7 hd => hc.reg_eq (hj j h7 hd), hc.flags_eq hcmp, hc.out_eq hprn, fun _ => by rw [hmem],
      .inl ⟨hc.running_eq.trans hhalt, hc.fault_eq⟩⟩
  · exact ⟨fun _ _ _ => rfl, rfl, rfl, fun _ => rfl, .inr ⟨rfl, rfl, rfl, rfl⟩⟩

/-! ### The flags and the output influence nothing but what reads them -/

/-- Whether an instruction raises depends on the registers and the memory alone. -/
theorem Raises.congr (hr : Raises i s) (u : State) (hregs : u.regs = s.regs) (hmem : u.mem = s.mem) :
    Raises i u := by
  have hreg : u.reg = s.reg := by
    funext j
    simp [State.reg, hregs]
  cases hr with
  | operand hb h => exact .operand hb h
  | push hsp => exact .push ((congrFun hreg 7).trans hsp)
  | call hsp => exact .call ((congrFun hreg 7).trans hsp)
  | ret hsp => exact .ret ((congrFun hreg 7).trans hsp)
  | pop hd hsp => exact .pop hd (by simpa [State.sp, hreg, hmem] using hsp)

namespace Completes

/-- From other flags the same happens, where a conditional jump finds the same Equal (42 R99, 44 R120 to R123). -/
theorem with_flags (hc : Completes i s t) (f : Flags)
    (he : i.mnemonic = .jumpIfEqual ∨ i.mnemonic = .jumpIfNotEqual → f.e = s.flags.e) :
    ∃ f', Completes i { s with flags := f } { t with flags := f' } := by
  cases hc with
  | halt => exact ⟨f, .halt⟩
  | loadImmediate hd => exact ⟨f, .loadImmediate hd⟩
  | printRegister hr => exact ⟨f, .printRegister hr⟩
  | multiply ha hb => exact ⟨f, .multiply ha hb⟩
  | add ha hb => exact ⟨f, .add ha hb⟩
  | compare ha hb => exact ⟨_, .compare ha hb⟩
  | push hr hsp => exact ⟨f, .push hr hsp⟩
  | pop hd hsp => exact ⟨f, .pop hd hsp⟩
  | call hr hsp => exact ⟨f, .call hr hsp⟩
  | ret hsp => exact ⟨f, .ret hsp⟩
  | jump hr => exact ⟨f, .jump hr⟩
  | jumpIfEqual hr =>
    rw [← he (.inl rfl)]
    exact ⟨f, .jumpIfEqual hr⟩
  | jumpIfNotEqual hr =>
    rw [← he (.inr rfl)]
    exact ⟨f, .jumpIfNotEqual hr⟩

/-- From other earlier output the same happens (10 R23). -/
theorem with_out (hc : Completes i s t) (earlier : List Byte) :
    ∃ later, Completes i { s with out := earlier } { t with out := later } := by
  cases hc with
  | halt => exact ⟨_, .halt⟩
  | loadImmediate hd => exact ⟨_, .loadImmediate hd⟩
  | printRegister hr => exact ⟨_, .printRegister hr⟩
  | multiply ha hb => exact ⟨_, .multiply ha hb⟩
  | add ha hb => exact ⟨_, .add ha hb⟩
  | compare ha hb => exact ⟨_, .compare ha hb⟩
  | push hr hsp => exact ⟨_, .push hr hsp⟩
  | pop hd hsp => exact ⟨_, .pop hd hsp⟩
  | call hr hsp => exact ⟨_, .call hr hsp⟩
  | ret hsp => exact ⟨_, .ret hsp⟩
  | jump hr => exact ⟨_, .jump hr⟩
  | jumpIfEqual hr => exact ⟨_, .jumpIfEqual hr⟩
  | jumpIfNotEqual hr => exact ⟨_, .jumpIfNotEqual hr⟩

end Completes

theorem exec_flags_eq (h : exec i s = .next t) (hi : i.mnemonic ≠ .compare) : t.flags = s.flags := by
  obtain hc | ⟨-, rfl⟩ := exec_eq_next.1 h
  · exact hc.flags_eq hi
  · rfl

/-- An instruction does the same from other flags, where a conditional jump finds the same Equal. -/
theorem exec_with_flags (h : exec i s = .next t) (f : Flags)
    (he : i.mnemonic = .jumpIfEqual ∨ i.mnemonic = .jumpIfNotEqual → f.e = s.flags.e) :
    ∃ f', exec i { s with flags := f } = .next { t with flags := f' } := by
  obtain hc | ⟨hr, rfl⟩ := exec_eq_next.1 h
  · obtain ⟨f', hc'⟩ := hc.with_flags f he
    exact ⟨f', hc'.exec_eq⟩
  · exact ⟨f, (hr.congr { s with flags := f } rfl rfl).exec_eq⟩

theorem exec_with_out (h : exec i s = .next t) (earlier : List Byte) :
    ∃ later, exec i { s with out := earlier } = .next { t with out := later } := by
  obtain hc | ⟨hr, rfl⟩ := exec_eq_next.1 h
  · obtain ⟨later, hc'⟩ := hc.with_out earlier
    exact ⟨later, hc'.exec_eq⟩
  · exact ⟨earlier, (hr.congr { s with out := earlier } rfl rfl).exec_eq⟩

/-- Settles O29, clause by clause. -/
theorem flagsWrittenByCompareReadByConditionalJumps :
    Obligations.FlagsWrittenByCompareReadByConditionalJumps := by
  refine ⟨fun i s t h hi => exec_flags_eq h hi, fun s op1 op2 a b ha hb => ?_,
    fun i s t f h hjeq hjne => ?_, fun i s t f h hi he => ?_⟩
  · exact ⟨_, (Completes.compare ha hb).exec_eq, compareFlags_eq _ _⟩
  · exact exec_with_flags h f fun hi => (hi.elim hjeq hjne).elim
  · obtain ⟨f', h'⟩ := exec_with_flags h f fun _ => he
    have hf : f' = f := exec_flags_eq h' (by obtain hi | hi := hi <;> simp [hi])
    rwa [hf] at h'

/-- Output grows only by PRINT_REGISTER, by the value of the register it names (41 R87, R89). -/
theorem Completes.out_eq_or_append (hc : Completes i s t) :
    t.out = s.out ∨ ∃ (op1 : Byte) (r : Fin 8), op1.toNat = r ∧ i = .printRegister op1 ∧
      t.out = s.out ++ [s.reg r] := by
  cases hc with
  | printRegister hr => exact .inr ⟨_, _, hr, rfl, rfl⟩
  | _ => exact .inl rfl

/-- Settles O37: the fetch reads memory and `pc` alone, and execution from other output differs in the output alone. -/
theorem outputGrowsOnlyByPrintRegister : Obligations.OutputGrowsOnlyByPrintRegister := by
  refine ⟨rfl, fun s t h => ?_, fun s t earlier h => ?_⟩
  · obtain ⟨-, ⟨i, hf, he⟩ | ⟨k, -, rfl⟩⟩ := (step_eq_next s t).1 h
    · obtain hc | ⟨-, rfl⟩ := exec_eq_next.1 he
      · obtain hout | ⟨op1, r, hr, rfl, hout⟩ := hc.out_eq_or_append
        · exact .inl hout
        · exact .inr ⟨op1, r, hr, hf, hout⟩
      · exact .inl rfl
    · exact .inl rfl
  · have hfetch : fetch { s with out := earlier } = fetch s := rfl
    obtain ⟨hrun, ⟨i, hf, he⟩ | ⟨k, hf, rfl⟩⟩ := (step_eq_next s t).1 h
    · obtain ⟨later, he'⟩ := exec_with_out he earlier
      exact ⟨later, (step_eq_next _ _).2 ⟨hrun, .inl ⟨i, hfetch.trans hf, he'⟩⟩⟩
    · exact ⟨earlier, (step_eq_next _ _).2 ⟨hrun, .inr ⟨k, hfetch.trans hf, rfl⟩⟩⟩

/-! ### The program counter, and launching -/

/-- Settles O38: a raise keeps `pc`; a completion sets it by its constructor, where no sum wraps. -/
theorem programCounterAfterInstruction : Obligations.ProgramCounterAfterInstruction := by
  intro i s t hpc hfault h
  obtain hc | ⟨-, rfl⟩ := exec_eq_next.1 h
  · refine ⟨fun hf => absurd (hc.fault_eq.trans hfault) hf, fun _ => ?_⟩
    have two := pc_add_toNat hpc (n := 2) (by omega)
    have three := pc_add_toNat hpc (n := 3) (by omega)
    cases hc with
    | halt => rfl
    | loadImmediate | multiply | add | compare => exact three
    | printRegister | push | pop => exact two
    | call hr | jump hr => exact ⟨_, hr, zext9_toNat _⟩
    | ret => exact zext9_toNat _
    | jumpIfEqual hr =>
      refine ⟨_, hr, ?_⟩
      cases he : s.flags.e
      · simpa [he] using two
      · simp [State.reg]
    | jumpIfNotEqual hr =>
      refine ⟨_, hr, ?_⟩
      cases he : s.flags.e
      · simp [State.reg]
      · simpa [he] using two
  · exact ⟨fun _ => rfl, fun hf => by simp at hf⟩

theorem loadProgram_of_le {program : List Byte} (m : Memory) (h : program.length ≤ Config.memSize) :
    loadProgram program m = .ok (m.place 0 program) := if_pos h

theorem loadProgram_of_gt {program : List Byte} (m : Memory) (h : Config.memSize < program.length) :
    loadProgram program m = .error .tooLong := if_neg (Nat.not_le.2 h)

/-- Settles O45: byte `k` of a placed program lies at `k`, and every other cell reads as it did at reset. -/
theorem launchPlacesProgramFromZero : Obligations.LaunchPlacesProgramFromZero := by
  intro program
  refine ⟨fun hlen => ?_, fun hlen => ?_⟩
  · have hread (k : Nat) := Memory.read_place program State.reset.mem 0 k ((Nat.zero_add _).trans_le hlen)
    refine ⟨{ State.reset with mem := State.reset.mem.place 0 program }, ?_, fun k hk => ?_, fun k hk => ?_, rfl⟩
    · rw [launch, loadProgram_of_le _ hlen]
      rfl
    · simp [hread, hk]
    · rw [hread, dif_neg (by omega)]
      rfl
  · rw [launch, loadProgram_of_gt _ hlen]
    rfl

end Sys2Proof.Machine

/-! What reaches memory: the contract of the two accesses, the stack write, and the next fetch. -/

namespace Sys2Proof.Machine

variable {i : Instr} {s t : State}

/-- A write is read back at its own address, and at any other the read answers as before the write (20 R32, R33). -/
theorem memRead_setMem_write (s : State) {addr : Int} (ha : ValidAddress addr) (v : Byte) (other : Int) :
    memRead (s.setMem (s.mem.write addr.toNat v)) other = if other = addr then .ok v else memRead s other := by
  unfold memRead
  split_ifs with hb heq heq
  · rw [heq, State.setMem_mem, Memory.read_write, if_pos rfl]
  · have hne : addr.toNat ≠ other.toNat := by omega
    rw [State.setMem_mem, Memory.read_write, if_neg hne]
  · exact absurd (heq ▸ ha) hb
  · rfl

/-- Settles O43: outside 0 to 255 both accesses raise by their error laws; inside, the write answers the state with the
one cell written, and every read of that state is a read after a write. -/
theorem memoryAccessContract : Obligations.MemoryAccessContract := by
  intro s addr v
  refine ⟨fun hout => ?_, fun ha => ?_⟩
  · have hinvalid : ¬ValidAddress addr := by omega
    exact ⟨(memRead_eq_error s addr _).2 ⟨hinvalid, rfl⟩, (memWrite_eq_error s addr v _).2 ⟨hinvalid, rfl⟩⟩
  · have hread := memRead_setMem_write s ha v
    exact ⟨(memRead_eq_ok s addr _).2 ⟨ha, rfl⟩, _, (memWrite_eq_ok s _ addr v).2 ⟨ha, rfl⟩,
      (hread addr).trans (if_pos rfl), fun other hne => (hread other).trans (if_neg hne), rfl⟩

/-- Memory changes only by a PUSH or a CALL that could decrement the stack pointer (20 R35, 43 R108). -/
theorem Completes.push_or_call_of_mem_ne (hc : Completes i s t) (hmem : t.mem ≠ s.mem) :
    (∃ op1, i = .push op1 ∨ i = .call op1) ∧ s.sp ≠ 0#8 := by
  cases hc with
  | push hr hsp => exact ⟨⟨_, .inl rfl⟩, hsp⟩
  | call hr hsp => exact ⟨⟨_, .inr rfl⟩, hsp⟩
  | _ => exact absurd rfl hmem

/-- Settles O36: a raise leaves memory as it was, so the fetched instruction completed, and a completion changes no byte
but the one at the decremented stack pointer. -/
theorem onlyPushAndCallChangeMemory : Obligations.OnlyPushAndCallChangeMemory := by
  intro s t a h hne
  obtain ⟨-, ⟨i, hf, he⟩ | ⟨k, -, rfl⟩⟩ := (step_eq_next s t).1 h
  · obtain hc | ⟨-, rfl⟩ := exec_eq_next.1 he
    · have hmem : t.mem ≠ s.mem := fun heq => hne (by rw [heq])
      obtain ⟨hi, hsp⟩ := hc.push_or_call_of_mem_ne hmem
      have ha : a = (s.sp - 1#8).toNat := not_not.1 fun ha => hne (hc.mem_read_eq ha)
      exact ⟨by simpa [hf] using hi, hsp, ha⟩
    · exact absurd rfl hne
  · exact absurd rfl hne

theorem fetchWindow_of_le (hpc : s.pc.toNat ≤ 253) :
    fetchWindow s = .ok (s.mem.read s.pc.toNat, s.mem.read (s.pc.toNat + 1), s.mem.read (s.pc.toNat + 2)) :=
  (fetchWindow_eq s).trans (if_pos hpc)

/-- After PUSH of a register other than R7 the new stack pointer holds that register's value, every other address what
it held (43 R106). -/
theorem mem_read_of_exec_push {op1 : Byte} {r : Fin 8} (hr : op1.toNat = r) (h7 : r ≠ 7) (hsp : s.sp ≠ 0#8)
    (h : exec (.push op1) s = .next t) (a : Nat) :
    t.mem.read a = if a = t.sp.toNat then s.reg r else s.mem.read a := by
  obtain ⟨rfl⟩ := (Completes.push hr hsp).exec_eq.symm.trans h
  refine (Memory.read_write _ _ a _).trans ?_
  rw [setSp_reg_of_ne _ h7]
  rw [State.setRunning_sp, State.setPc_sp, State.setMem_sp, State.setSp_sp]
  exact if_congr eq_comm rfl rfl

/-- Settles O42: the next fetch reads its three cells from the memory that PUSH left (the spec's decision D14). -/
theorem fetchSeesStackWrite : Obligations.FetchSeesStackWrite := by
  intro s t op1 r hr h7 hsp h hpc
  have hread := mem_read_of_exec_push hr h7 hsp h
  exact ⟨_, _, _, fetchWindow_of_le hpc, hread _, hread _, hread _⟩

end Sys2Proof.Machine

/-! The encoding: the decoder and the encoder answer for each other, the opcode byte alone selects, and the window bytes
a format does not name are ignored. -/

namespace Sys2Proof.Machine

variable {b0 op1 op2 : Byte} {bytes : List Byte} {i : Instr} {m : Mnemonic} {s : State}

/-! ### Decoding a window -/

/-- On a whole window the decoder answers what the window decodes to, whatever follows it (30 R50). -/
theorem decode_window_eq_ok : decode (b0 :: op1 :: op2 :: bytes) = .ok i ↔ decodeWindow b0 op1 op2 = some i := by
  cases h : decodeWindow b0 op1 op2 <;> simp [decode, h]

/-- Operand bytes begin with those of `i` exactly when `i`'s name makes `i` of the first two (30 R51). -/
theorem operandBytes_prefix_iff : i.operandBytes <+: op1 :: op2 :: bytes ↔ i.mnemonic.instr op1 op2 = i := by
  cases i with
  | halt | ret => simp [Instr.operandBytes, Instr.mnemonic, Mnemonic.instr]
  | printRegister a | push a | pop a | call a | jump a | jumpIfEqual a | jumpIfNotEqual a =>
    simp [Instr.operandBytes, Instr.mnemonic, Mnemonic.instr, eq_comm]
  | loadImmediate a b | multiply a b | add a b | compare a b =>
    simp [Instr.operandBytes, Instr.mnemonic, Mnemonic.instr, eq_comm]

/-- A window decodes to `i` exactly when it begins with the encoding of `i` (30 R51, R56, R60). -/
theorem decodeWindow_eq_some_iff_encode_prefix :
    decodeWindow b0 op1 op2 = some i ↔ encode i <+: b0 :: op1 :: op2 :: bytes := by
  rw [decodeWindow_eq_some, encode, List.cons_prefix_cons, operandBytes_prefix_iff]
  constructor
  · rintro ⟨m, hop, rfl⟩
    rw [Mnemonic.instr_mnemonic]
    exact ⟨hop, rfl⟩
  · exact fun ⟨hop, hi⟩ => ⟨_, hop, hi⟩

/-- Settles O2: fewer than three bytes decode to nothing, and a whole window decodes to what its beginning encodes. -/
theorem decodeIffWindowBeginsWithEncoding : Obligations.DecodeIffWindowBeginsWithEncoding := by
  intro bytes i
  match bytes with
  | b0 :: op1 :: op2 :: rest => simp [decode_window_eq_ok, decodeWindow_eq_some_iff_encode_prefix (bytes := rest)]
  | [] | [_] | [_, _] => simp [decode]

/-! ### Selecting by the opcode byte -/

theorem decodeWindow_of_opcode (h : decodeOpcode b0 = some m) (op1 op2 : Byte) :
    decodeWindow b0 op1 op2 = some (m.instr op1 op2) :=
  (decodeWindow_eq_some b0 op1 op2 _).2 ⟨m, (decodeOpcode_eq_some b0 m).1 h, rfl⟩

/-- Settles O3: by what the opcode byte alone decodes to. -/
theorem opcodeByteAloneSelects : Obligations.OpcodeByteAloneSelects := by
  intro b0
  cases h : decodeOpcode b0 with
  | none => exact .inr fun op1 op2 => (decodeWindow_eq_none b0 op1 op2).2 ((decodeOpcode_eq_none b0).1 h)
  | some m => exact .inl ⟨m, fun op1 op2 => ⟨_, decodeWindow_of_opcode h op1 op2, m.instr_mnemonic op1 op2⟩⟩

/-- Settles O4: the 13 values listed are the opcodes of all names. -/
theorem otherOpcodesAreUnknown : Obligations.OtherOpcodesAreUnknown := by
  intro b0 op1 op2
  rw [decodeWindow_eq_none]
  change _ ↔ b0 ∉ Mnemonic.all.map Mnemonic.opcode
  simp [Mnemonic.mem_all]

/-! ### Window bytes the format does not name -/

/-- Format Z names neither operand byte (30 R51, R55). -/
theorem instr_eq_of_format_z (h : m.format = .z) (a b c d : Byte) : m.instr a b = m.instr c d := by
  cases m with
  | halt | ret => rfl
  | _ => cases h

/-- Format R names the first operand byte alone (30 R51, R55). -/
theorem instr_eq_of_format_r (h : m.format = .r) (a b d : Byte) : m.instr a b = m.instr a d := by
  cases m with
  | printRegister | push | pop | call | jump | jumpIfEqual | jumpIfNotEqual => rfl
  | _ => cases h

/-- With a known opcode at `pc` the fetch answers its instruction on the next two bytes (40 R71, R73). -/
theorem fetch_of_opcode (hpc : s.pc.toNat ≤ 253) (h : decodeOpcode (s.mem.read s.pc.toNat) = some m) :
    fetch s = .ok (m.instr (s.mem.read (s.pc.toNat + 1)) (s.mem.read (s.pc.toNat + 2))) := by
  rw [fetch_eq, if_pos hpc, decodeWindow_of_opcode h]

/-- With other memory that holds the same known opcode at `pc`, the fetch answers its instruction on that memory's next
two bytes. -/
theorem fetch_with_mem_of_opcode {mem : Memory} (hpc : s.pc.toNat ≤ 253)
    (h : decodeOpcode (s.mem.read s.pc.toNat) = some m) (hread : mem.read s.pc.toNat = s.mem.read s.pc.toNat) :
    fetch { s with mem := mem } = .ok (m.instr (mem.read (s.pc.toNat + 1)) (mem.read (s.pc.toNat + 2))) := by
  rw [← hread] at h
  exact fetch_of_opcode (s := { s with mem := mem }) hpc h

/-- Settles O5: the writes leave the opcode byte, for format R the first operand byte too, and the name makes the same
instruction of what it reads. -/
theorem ignoredWindowBytesHaveNoEffect : Obligations.IgnoredWindowBytesHaveNoEffect := by
  intro s m v1 v2 hpc h
  rw [fetch_of_opcode hpc h]
  refine ⟨fun hz => ?_, fun hr => ?_⟩
  · rw [fetch_with_mem_of_opcode hpc h (by simp), instr_eq_of_format_z hz]
  · have hop1 : (s.mem.write (s.pc.toNat + 2) v2).read (s.pc.toNat + 1) = s.mem.read (s.pc.toNat + 1) := by simp
    rw [fetch_with_mem_of_opcode hpc h (by simp), hop1, instr_eq_of_format_r hr]

/-! ### A register operand above 7 -/

/-- Settles O10: some register operand is above 7, and it raises in every instruction that names it. -/
theorem registerOperandAboveSevenRaises : Obligations.RegisterOperandAboveSevenRaises := by
  intro s i hi
  obtain ⟨b, hb, h7⟩ : ∃ b ∈ i.registerOperands, ¬b ≤ 7#8 := by simpa [Instr.WellFormed] using hi
  have h8 : 8 ≤ b.toNat := by bv_omega
  exact exec_of_operand_ge hb h8

end Sys2Proof.Machine

/-! The step: it runs the instruction that the window at `pc` decodes to, raises where the fetch does, exists while the
machine runs; and an instruction that no condition of R133 b to e concerns completes. -/

namespace Sys2Proof.Machine

variable {i : Instr} {k : ErrorKind} {s t : State}

/-! ### Fetch, decode, execute -/

theorem step_of_not_running (h : s.running = false) : step s = .fault .terminated := by
  simp [step, h]

theorem step_of_fetch_eq_ok (hrun : s.running = true) (h : fetch s = .ok i) : step s = exec i s := by
  simp [step, hrun, h]

theorem step_of_fetch_eq_error (hrun : s.running = true) (h : fetch s = .error k) : step s = .next (s.raise k) := by
  simp [step, hrun, h]

/-- Where the whole window is in memory, the fetch answers the instruction it decodes to (40 R71, R73). -/
theorem fetch_of_decode_eq_ok (hpc : s.pc.toNat ≤ 253)
    (h : decode [s.mem.read s.pc.toNat, s.mem.read (s.pc.toNat + 1), s.mem.read (s.pc.toNat + 2)] = .ok i) :
    fetch s = .ok i := by
  rw [fetch_eq, if_pos hpc, decode_window_eq_ok.1 h]

/-- Where the window leaves memory, the fetch raises before any byte is decoded (40 R72). -/
theorem fetch_of_pc_ge (hpc : 254 ≤ s.pc.toNat) : fetch s = .error .operandRange := by
  rw [fetch_eq, if_neg (by omega)]

/-- Settles O6: the fetch answers the decoded instruction. -/
theorem stepRunsDecodedInstruction : Obligations.StepRunsDecodedInstruction := by
  intro s i hrun hpc h
  exact step_of_fetch_eq_ok hrun (fetch_of_decode_eq_ok hpc h)

/-- Settles O7: the step raises what the fetch raises. -/
theorem fetchPastMemoryRaises : Obligations.FetchPastMemoryRaises := by
  intro s hrun hpc
  exact step_of_fetch_eq_error hrun (fetch_of_pc_ge hpc)

/-! ### When a step answers a next state -/

theorem exec_is_next (i : Instr) (s : State) : ∃ t, exec i s = .next t := by
  obtain ⟨t, hc⟩ | hr := completes_or_raises i s
  · exact ⟨t, hc.exec_eq⟩
  · exact ⟨_, hr.exec_eq⟩

/-- Settles O9: while running, the fetch raises into a next state, or the fetched instruction answers one. -/
theorem stepExistsExactlyWhileRunning : Obligations.StepExistsExactlyWhileRunning := by
  intro s
  refine ⟨step_of_not_running, fun hrun => ?_⟩
  cases hf : fetch s with
  | ok i => exact step_of_fetch_eq_ok hrun hf ▸ exec_is_next i s
  | error k => exact ⟨_, step_of_fetch_eq_error hrun hf⟩

/-! ### When an instruction completes -/

/-- The pointer that POP increments is the popped byte for POP R7, and the old pointer for every other register (43
R107, the spec's decision D10). -/
theorem sp_setReg_ne_of_pop {op1 v w : Byte} {d : Fin 8} (hd : op1.toNat = d) (h7 : op1 = 7 → v ≠ w)
    (hsp : op1 ≠ 7 → s.sp ≠ w) : (s.setReg d v).sp ≠ w := by
  rw [State.setReg_sp]
  split_ifs with hd7
  · exact h7 (BitVec.eq_of_toNat_eq (hd.trans (congrArg Fin.val hd7)))
  · refine hsp fun hop => hd7 (Fin.ext ?_)
    rw [← hd, hop]
    rfl

/-- Settles O48: each condition under which an instruction raises is shut out, so it completes. -/
theorem instructionsCompleteWithinStackLimits : Obligations.InstructionsCompleteWithinStackLimits := by
  intro s i hwf hdec hinc hpop
  obtain ⟨t, hc⟩ | hr := completes_or_raises i s
  · exact ⟨t, hc.exec_eq, hc.running_eq, hc.fault_eq⟩
  · exfalso
    cases hr with
    | operand hb h =>
      have h7 := hwf _ hb
      bv_omega
    | push hsp => exact hdec (.inl rfl) hsp
    | call hsp => exact hdec (.inr rfl) hsp
    | ret hsp => exact hinc (.inl rfl) hsp
    | pop hd hsp =>
      refine sp_setReg_ne_of_pop hd (fun h7 => hpop (congrArg _ h7)) (fun h7 => hinc (.inr ⟨rfl, ?_⟩)) hsp
      exact fun h => h7 (Instr.pop.inj h)

end Sys2Proof.Machine

/-! HALT, LOAD_IMMEDIATE and PRINT_REGISTER on the whole state, and the only way to the normal terminal state. -/

namespace Sys2Proof.Machine

variable {i : Instr} {s t : State}

/-! ### How a run ends -/

/-- A raise ends the run abnormally (40 R78, 60 R135). -/
theorem raise_not_endedNormally (s : State) (k : ErrorKind) : ¬(s.raise k).EndedNormally :=
  fun h => Option.some_ne_none k h.2

/-- HALT names no register and moves no stack pointer, so it cannot raise. -/
theorem Raises.ne_halt (hr : Raises i s) : i ≠ .halt := by
  rintro rfl
  cases hr with
  | operand hb => exact List.not_mem_nil hb

/-- From a state without a fault, a completing instruction ends the run normally exactly when it is HALT (40 R76). -/
theorem Completes.endedNormally_iff (hc : Completes i s t) (hs : s.fault = none) : t.EndedNormally ↔ i = .halt := by
  rw [State.EndedNormally, hc.running_eq, hc.fault_eq, and_iff_left hs, bne_eq_false_iff_eq]

/-- Settles O32: a raise leaves a fault and is never HALT's; a completion clears `running` for HALT alone. -/
theorem onlyHaltEndsNormally : Obligations.OnlyHaltEndsNormally := by
  intro s t hs h
  obtain ⟨-, ⟨i, hf, he⟩ | ⟨k, hf, rfl⟩⟩ := (step_eq_next s t).1 h
  · rw [hf, Except.ok.injEq]
    obtain hc | ⟨hr, rfl⟩ := exec_eq_next.1 he
    · exact hc.endedNormally_iff hs
    · exact iff_of_false (raise_not_endedNormally s _) hr.ne_halt
  · rw [hf]
    exact iff_of_false (raise_not_endedNormally s k) nofun

/-! ### What the three instructions do -/

/-- Settles O11: HALT completes in the state with `running` cleared, and from there no step exists (the spec's decision
D9 keeps `pc`). -/
theorem haltStopsTheMachine : Obligations.HaltStopsTheMachine :=
  fun _ => ⟨Completes.halt.exec_eq, step_of_not_running rfl⟩

/-- Settles O12: the operand names a register, so the instruction completes. -/
theorem loadImmediateWritesRegister : Obligations.LoadImmediateWritesRegister :=
  fun _ _ _ _ hd => (Completes.loadImmediate hd).exec_eq

/-- Settles O13: the operand names a register, so the instruction completes. -/
theorem printRegisterEmitsValue : Obligations.PrintRegisterEmitsValue :=
  fun _ _ _ hr => (Completes.printRegister hr).exec_eq

end Sys2Proof.Machine

/-! MULTIPLY, ADD and COMPARE on the whole state, and the ALU error that no run meets (42 R95 to R102). -/

namespace Sys2Proof.Machine

variable {s t : State} {op1 op2 : Byte} {a b : Fin 8}

/-! ### No run raises the ALU's error -/

/-- What every step keeps holds at the end of a run that begins with it. -/
theorem Steps.preserves {P : State → Prop} (hstep : ∀ s t, P s → step s = .next t → P t) {n : Nat}
    (h : Steps n s t) (hs : P s) : P t := by
  induction n generalizing s with
  | zero => exact h ▸ hs
  | succ n ih =>
    obtain ⟨u, hu, htail⟩ := h
    exact ih htail (hstep s u hs hu)

/-- No step raises the ALU's error, whatever the state it starts in: a completion keeps the fault, an instruction raises
OperandRangeError alone, and the fetch raises its own two errors (42 R102). -/
theorem step_fault_ne_unsupportedAluOperation (hs : s.fault ≠ some .unsupportedAluOperation)
    (h : step s = .next t) : t.fault ≠ some .unsupportedAluOperation := by
  obtain ⟨-, ⟨i, -, he⟩ | ⟨k, hf, rfl⟩⟩ := (step_eq_next s t).1 h
  · obtain hc | ⟨-, rfl⟩ := exec_eq_next.1 he
    · rwa [hc.fault_eq]
    · simp
  · simpa using fetch_error_ne_unsupportedAluOperation hf

/-- Settles O35, by induction on the steps. The memory need not be canonical, so the machine's invariant does not hold
at the start; its clause on the ALU's error is kept by itself. -/
theorem unsupportedAluOperationIsUnreachable : Obligations.UnsupportedAluOperationIsUnreachable :=
  fun _ _ _ h => h.preserves (P := fun s => s.fault ≠ some .unsupportedAluOperation)
    (fun _ _ => step_fault_ne_unsupportedAluOperation) nofun

/-! ### What the three instructions do -/

/-- COMPARE leaves all but the flags, `pc` and `running` as it was (42 R98). -/
theorem exec_compare_of_compareFlags (ha : op1.toNat = a) (hb : op2.toNat = b) {f : Flags}
    (hf : compareFlags (s.reg a) (s.reg b) = f) :
    exec (.compare op1 op2) s = .next { s with flags := f, pc := s.pc + 3#9, running := true } :=
  hf ▸ (Completes.compare ha hb).exec_eq

/-- Settles O15, by the three rows of the outcome table (42 R99, the spec's decision D11). -/
theorem compareSetsExactlyOneFlag : Obligations.CompareSetsExactlyOneFlag := by
  intro s op1 op2 a b ha hb
  have table := compareFlags_eq (s.reg a) (s.reg b)
  refine ⟨fun heq => ?equal, fun hlt => ?less, fun hgt => ?greater⟩ <;>
    refine exec_compare_of_compareFlags ha hb (table.trans ?_)
  case equal => exact if_pos heq
  case less => exact (if_neg hlt.ne).trans (if_pos hlt)
  case greater => exact (if_neg hgt.ne').trans (if_neg hgt.not_gt)

theorem ofNat_mul_mod (v w : Byte) : BitVec.ofNat 8 (v.toNat * w.toNat % 256) = v * w :=
  BitVec.eq_of_toNat_eq (by simp)

theorem ofNat_add_mod (v w : Byte) : BitVec.ofNat 8 ((v.toNat + w.toNat) % 256) = v + w :=
  BitVec.eq_of_toNat_eq (by simp)

/-- Settles O14: the operands name registers, so both instructions complete; a byte product or sum is the unbounded one
modulo 256. -/
theorem aluResultsWrapModulo256 : Obligations.AluResultsWrapModulo256 := by
  intro s op1 op2 a b ha hb
  rw [ofNat_mul_mod, ofNat_add_mod]
  exact ⟨(Completes.multiply ha hb).exec_eq, (Completes.add ha hb).exec_eq⟩

end Sys2Proof.Machine

/-! PUSH and POP on the whole state, and their round trip (43 R106 to R109). -/

namespace Sys2Proof.Machine

variable {s t : State} {op1 : Byte} {d r : Fin 8}

/-! ### What the two instructions do -/

/-- After R7 is written, it reads as the written byte and any other register as before. -/
theorem setSp_reg_eq_ite (s : State) (v : Byte) (j : Fin 8) :
    (s.setSp v).reg j = if j = 7 then v else s.reg j :=
  (State.setSp_reg s v j).trans (if_congr eq_comm rfl rfl)

/-- Settles O16: the stored register is read after the decrement, so for R7 it is the decremented pointer (the spec's
decision D10); with nothing left to decrement the instruction raises. -/
theorem pushStoresBelowTheStackPointer : Obligations.PushStoresBelowTheStackPointer := by
  intro s op1 r hr
  refine ⟨fun hsp => ?_, fun hsp => (Raises.push hsp).exec_eq⟩
  have h := (Completes.push hr hsp).exec_eq
  rw [setSp_reg_eq_ite] at h
  exact h

/-- POP completes when the pointer it finds after writing its destination can be incremented. -/
theorem exec_pop_of_sp_ne {p : Byte} (hd : op1.toNat = d) (hp : (s.setReg d (s.mem.read s.sp.toNat)).sp = p)
    (hne : p ≠ 255#8) :
    exec (.pop op1) s = .next { s with
      regs := (s.regs.set d (s.mem.read s.sp.toNat)).set 7 (p + 1#8)
      pc := s.pc + 2#9
      running := true } := by
  subst hp
  exact (Completes.pop hd hne).exec_eq

/-- Settles O17: the pointer to increment is the old one, or for POP R7 the popped byte, which the incremented one then
overwrites (the spec's decision D10). -/
theorem popLoadsFromTheStackPointer : Obligations.PopLoadsFromTheStackPointer := by
  intro s op1 d hd
  have hsp := State.setReg_sp s d (s.mem.read s.sp.toNat)
  refine ⟨fun h7 => ?other, fun h7 => ?otherRaises, fun h7 => ?r7, fun h7 => ?r7Raises⟩
  case other => exact exec_pop_of_sp_ne hd (hsp.trans (if_neg h7))
  case otherRaises => exact fun h => (Raises.pop hd (hsp.trans ((if_neg h7).trans h))).exec_eq
  case r7 =>
    intro hne
    have h := exec_pop_of_sp_ne hd (hsp.trans (if_pos h7)) hne
    subst h7
    rw [← Vector.set_set]
    exact h
  case r7Raises => exact fun h => (Raises.pop hd (hsp.trans ((if_pos h7).trans h))).exec_eq

/-! ### The round trip -/

theorem setReg_reg_self (s : State) (i : Fin 8) : s.setReg i (s.reg i) = s := by
  simp [State.setReg, State.reg]

namespace Completes

/-- PUSH writes no register but R7, which it decrements (43 R106). -/
theorem push_reg (hc : Completes (.push op1) s t) (j : Fin 8) :
    t.reg j = if j = 7 then s.sp - 1#8 else s.reg j := by
  cases hc
  exact setSp_reg_eq_ite s _ j

theorem push_sp (hc : Completes (.push op1) s t) : t.sp = s.sp - 1#8 := hc.push_reg 7

/-- The byte at the new stack pointer is what the pushed register holds after the PUSH, for R7 too. -/
theorem push_mem_read_sp (hc : Completes (.push op1) s t) (hr : op1.toNat = r) :
    t.mem.read t.sp.toNat = t.reg r := by
  rw [hc.push_sp]
  cases hc with
  | push hr' =>
    obtain rfl := Fin.ext (hr'.symm.trans hr)
    exact (Memory.read_write _ _ _ _).trans (if_pos rfl)

end Completes

/-- A POP that finds its destination's own value at the stack pointer moves the pointer and `pc` alone. -/
theorem pop_of_mem_read_sp (hd : op1.toNat = d) (hread : s.mem.read s.sp.toNat = s.reg d) (hsp : s.sp ≠ 255#8) :
    Completes (.pop op1) s (((s.setSp (s.sp + 1#8)).setPc (s.pc + 2#9)).setRunning true) := by
  have hsame : s.setReg d (s.mem.read s.sp.toNat) = s := by rw [hread, setReg_reg_self]
  have hc := Completes.pop (s := s) hd (by rwa [hsame])
  rwa [hsame] at hc

/-- Settles O40: POP finds at the stack pointer what its register still holds, so it only undoes the decrement. -/
theorem pushThenPopRoundTrips : Obligations.PushThenPopRoundTrips := by
  intro s op1 r hr hsp
  obtain ⟨t, hpush⟩ : ∃ t, Completes (.push op1) s t := ⟨_, .push hr hsp⟩
  have hread := hpush.push_mem_read_sp hr
  have hne : s.sp - 1#8 ≠ 255#8 := by
    have : s.sp ≠ 0#8 := hsp
    bv_omega
  have hpop := pop_of_mem_read_sp hr hread (hpush.push_sp ▸ hne)
  refine ⟨t, _, hpush.exec_eq, hpop.exec_eq, State.regs_ext _ _ fun j => ?regs, ?cell, fun a ha => ?others⟩
  case regs =>
    refine (setSp_reg_eq_ite t _ j).trans ?_
    rw [hpush.push_sp, BitVec.sub_add_cancel, hpush.push_reg]
    split_ifs with h7
    · rw [h7]
      rfl
    · rfl
  case cell =>
    rw [hpush.push_sp, hpush.push_reg] at hread
    exact hread
  case others => exact hpush.mem_read_eq ha

end Sys2Proof.Machine

/-! CALL, RETURN and the jumps on the whole state, the return from a call, and that Less and Greater steer no run
(44 R114 to R123). -/

namespace Sys2Proof.Machine

variable {i : Instr} {s t : State} {op1 : Byte} {r : Fin 8} {f : Flags}

/-! ### Less and Greater influence nothing -/

/-- With the same Equal an instruction does the same and leaves the same Equal: COMPARE computes all flags from the
registers, and every other instruction keeps those it finds. -/
theorem Completes.with_same_equal (hc : Completes i s t) (he : f.e = s.flags.e) :
    ∃ f' : Flags, f'.e = t.flags.e ∧ Completes i { s with flags := f } { t with flags := f' } := by
  by_cases hi : i.mnemonic = .compare
  · cases hc with
    | compare ha hb => exact ⟨_, rfl, .compare ha hb⟩
    | _ => cases hi
  · obtain ⟨f', hc'⟩ := hc.with_flags f fun _ => he
    have hf : f' = f := hc'.flags_eq hi
    exact ⟨f', by rw [hf, he, hc.flags_eq hi], hc'⟩

theorem exec_with_same_equal (h : exec i s = .next t) (he : f.e = s.flags.e) :
    ∃ f' : Flags, f'.e = t.flags.e ∧ exec i { s with flags := f } = .next { t with flags := f' } := by
  obtain hc | ⟨hr, rfl⟩ := exec_eq_next.1 h
  · obtain ⟨f', he', hc'⟩ := hc.with_same_equal he
    exact ⟨f', he', hc'.exec_eq⟩
  · exact ⟨f, he, (hr.congr { s with flags := f } rfl rfl).exec_eq⟩

/-- The fetch reads no flag, so a step from flags with the same Equal does the same and leaves the same Equal. -/
theorem step_with_same_equal (h : step s = .next t) (he : f.e = s.flags.e) :
    ∃ f' : Flags, f'.e = t.flags.e ∧ step { s with flags := f } = .next { t with flags := f' } := by
  have hfetch : fetch { s with flags := f } = fetch s := rfl
  obtain ⟨hrun, ⟨i, hf, hexec⟩ | ⟨k, hf, rfl⟩⟩ := (step_eq_next s t).1 h
  · obtain ⟨f', he', hexec'⟩ := exec_with_same_equal hexec he
    exact ⟨f', he', (step_eq_next _ _).2 ⟨hrun, .inl ⟨i, hfetch.trans hf, hexec'⟩⟩⟩
  · exact ⟨f, he, (step_eq_next _ _).2 ⟨hrun, .inr ⟨k, hfetch.trans hf, rfl⟩⟩⟩

theorem Steps.with_same_equal {n : Nat} (h : Steps n s t) (he : f.e = s.flags.e) :
    ∃ f' : Flags, f'.e = t.flags.e ∧ Steps n { s with flags := f } { t with flags := f' } := by
  induction n generalizing s f with
  | zero =>
    obtain rfl : s = t := h
    exact ⟨f, he, rfl⟩
  | succ n ih =>
    obtain ⟨u, hu, htail⟩ := h
    obtain ⟨fu, heu, hu'⟩ := step_with_same_equal hu he
    obtain ⟨f', he', htail'⟩ := ih htail heu
    exact ⟨f', he', _, hu', htail'⟩

/-- Settles O30, by the invariant that the two runs keep the same Equal and differ in the flags alone. -/
theorem lessAndGreaterInfluenceNothing : Obligations.LessAndGreaterInfluenceNothing := by
  intro n s t l g h
  obtain ⟨⟨_, l', g'⟩, rfl, h'⟩ := h.with_same_equal (f := ⟨s.flags.e, l, g⟩) rfl
  exact ⟨l', g', h'⟩

/-! ### Jump targets and return addresses -/

/-- A byte becomes a program counter value without a change of its number (00 R6). -/
theorem ofNat_toNat_eq_zext9 (v : Byte) : BitVec.ofNat 9 v.toNat = zext9 v := BitVec.ofNat_toNat 9 v

/-- The return address of a fetched CALL fits the byte that it is stored in (44 R114). -/
theorem lowByte_pc_add_two_toNat {p : Pc} (hp : p.toNat ≤ 253) : (lowByte (p + 2#9)).toNat = p.toNat + 2 := by
  rw [lowByte_toNat, pc_add_toNat hp (by omega), Nat.mod_eq_of_lt (by omega)]

theorem ofNat_pc_add_two_eq_lowByte {p : Pc} (hp : p.toNat ≤ 253) :
    BitVec.ofNat 8 (p.toNat + 2) = lowByte (p + 2#9) := by
  rw [← lowByte_pc_add_two_toNat hp, BitVec.ofNat_toNat, BitVec.setWidth_eq]

/-! ### What the five instructions do -/

/-- Settles O18: the target is read after the decrement, so for R7 it is the decremented pointer (the spec's decision
D10); with nothing left to decrement the instruction raises. -/
theorem callPushesReturnAddress : Obligations.CallPushesReturnAddress := by
  intro s op1 r hr hpc
  refine ⟨fun hsp => ?_, fun hsp => (Raises.call hsp).exec_eq⟩
  have h := (Completes.call hr hsp).exec_eq
  rw [setSp_reg_eq_ite] at h
  rw [ofNat_toNat_eq_zext9, ofNat_pc_add_two_eq_lowByte hpc]
  exact h

/-- Settles O19: RETURN completes where the pointer can be incremented, and raises at 255. -/
theorem returnPopsProgramCounter : Obligations.ReturnPopsProgramCounter := by
  intro s
  rw [ofNat_toNat_eq_zext9]
  exact ⟨fun hsp => (Completes.ret hsp).exec_eq, fun hsp => (Raises.ret hsp).exec_eq⟩

/-- Settles O20: the operand names a register, so the instruction completes. -/
theorem jumpSetsProgramCounter : Obligations.JumpSetsProgramCounter := by
  intro s op1 r hr
  rw [ofNat_toNat_eq_zext9]
  exact (Completes.jump hr).exec_eq

/-- JUMP_IF_EQUAL leaves all but `pc` and `running` as it was (44 R120). -/
theorem exec_jumpIfEqual_of_target (hr : op1.toNat = r) {p : Pc}
    (hp : (if s.flags.e then zext9 (s.reg r) else s.pc + 2#9) = p) :
    exec (.jumpIfEqual op1) s = .next { s with pc := p, running := true } :=
  hp ▸ (Completes.jumpIfEqual hr).exec_eq

/-- JUMP_IF_NOT_EQUAL leaves all but `pc` and `running` as it was (44 R122). -/
theorem exec_jumpIfNotEqual_of_target (hr : op1.toNat = r) {p : Pc}
    (hp : (if s.flags.e then s.pc + 2#9 else zext9 (s.reg r)) = p) :
    exec (.jumpIfNotEqual op1) s = .next { s with pc := p, running := true } :=
  hp ▸ (Completes.jumpIfNotEqual hr).exec_eq

/-- Settles O21: the target is the register's value or the next instruction, as Equal says. -/
theorem jumpIfEqualFollowsEqualFlag : Obligations.JumpIfEqualFollowsEqualFlag := by
  intro s op1 r hr
  rw [ofNat_toNat_eq_zext9]
  exact ⟨fun hset => exec_jumpIfEqual_of_target hr (if_pos hset),
    fun hclear => exec_jumpIfEqual_of_target hr (if_neg (ne_true_of_eq_false hclear))⟩

/-- Settles O22: the target is the register's value or the next instruction, as Equal says. -/
theorem jumpIfNotEqualFollowsEqualFlag : Obligations.JumpIfNotEqualFollowsEqualFlag := by
  intro s op1 r hr
  rw [ofNat_toNat_eq_zext9]
  exact ⟨fun hclear => exec_jumpIfNotEqual_of_target hr (if_neg (ne_true_of_eq_false hclear)),
    fun hset => exec_jumpIfNotEqual_of_target hr (if_pos hset)⟩

/-! ### The two conditional jumps -/

/-- JUMP_IF_EQUAL completes where JUMP_IF_NOT_EQUAL completes with Equal inverted (44 R120, R122). -/
theorem Completes.jumpIfNotEqual_of_jumpIfEqual (hc : Completes (.jumpIfEqual op1) s t) (hf : f.e = !s.flags.e) :
    Completes (.jumpIfNotEqual op1) { s with flags := f } { t with flags := f } := by
  cases hc with
  | @jumpIfEqual _ _ d hd =>
    have htarget : (if f.e then s.pc + 2#9 else zext9 (s.reg d)) =
        if s.flags.e then zext9 (s.reg d) else s.pc + 2#9 := by
      rw [hf]
      cases s.flags.e <;> rfl
    rw [← htarget]
    exact .jumpIfNotEqual hd

/-- The two conditional jumps raise on the same operands, whatever the flags (44 R121, the spec's decision D7). -/
theorem Raises.jumpIfNotEqual_of_jumpIfEqual (hr : Raises (.jumpIfEqual op1) s) : Raises (.jumpIfNotEqual op1) s := by
  cases hr with
  | operand hb h => exact .operand hb h

/-- Settles O39: both jumps complete with the same target, or both raise. -/
theorem conditionalJumpsAreComplements : Obligations.ConditionalJumpsAreComplements := by
  intro s t op1 l g h
  obtain hc | ⟨hr, rfl⟩ := exec_eq_next.1 h
  · exact (hc.jumpIfNotEqual_of_jumpIfEqual rfl).exec_eq
  · exact (hr.jumpIfNotEqual_of_jumpIfEqual.congr { s with flags := ⟨!s.flags.e, l, g⟩ } rfl rfl).exec_eq

/-! ### The return from a call -/

theorem completes_of_exec_of_running (h : exec i s = .next t) (hrun : t.running = true) : Completes i s t := by
  obtain hc | ⟨-, rfl⟩ := exec_eq_next.1 h
  · exact hc
  · cases hrun

namespace Completes

/-- CALL decrements a stack pointer that it found above 0 (44 R114). -/
theorem call_sp (hc : Completes (.call op1) s t) : s.sp ≠ 0#8 ∧ t.sp = s.sp - 1#8 := by
  cases hc with
  | call hr hsp => exact ⟨hsp, State.setSp_sp s _⟩

/-- The byte at the new stack pointer is the return address (44 R114). -/
theorem call_mem_read_sp (hc : Completes (.call op1) s t) : t.mem.read t.sp.toNat = lowByte (s.pc + 2#9) := by
  rw [hc.call_sp.2]
  cases hc
  exact (Memory.read_write _ _ _ _).trans (if_pos rfl)

end Completes

/-- Settles O41: the pointer a CALL leaves can be incremented, and the cell at it holds the return address. -/
theorem returnResumesAfterCall : Obligations.ReturnResumesAfterCall := by
  intro s t u op1 hpc h hrun hreg hread
  have hcall := completes_of_exec_of_running h hrun
  obtain ⟨hsp, htsp⟩ := hcall.call_sp
  have husp : u.sp = s.sp - 1#8 := hreg.trans htsp
  have hret : Completes .ret u _ := .ret (by rw [husp]; bv_omega)
  refine ⟨_, hret.exec_eq, rfl, ?pc, ?sp⟩
  case pc =>
    have hcell : u.mem.read u.sp.toNat = lowByte (s.pc + 2#9) := hread.trans hcall.call_mem_read_sp
    calc (zext9 (u.mem.read u.sp.toNat)).toNat
      _ = (lowByte (s.pc + 2#9)).toNat := by rw [zext9_toNat, hcell]
      _ = s.pc.toNat + 2 := lowByte_pc_add_two_toNat hpc
  case sp =>
    calc (u.setSp (u.sp + 1#8)).sp
      _ = s.sp - 1#8 + 1#8 := by rw [State.setSp_sp, husp]
      _ = s.sp := BitVec.sub_add_cancel _ _

end Sys2Proof.Machine

/-! Errors: the conditions that raise each kind, precision and finality of every raise, and what the status and trace
ports show (60 R130 to R138, R146). -/

namespace Sys2Proof.Machine

variable {i : Instr} {k : ErrorKind} {s t : State} {b0 op1 op2 : Byte} {d : Fin 8}

/-! ### What the fetch raises -/

/-- Where no name has the byte at `pc` as its opcode, the fetch succeeds and the decoder raises (40 R73, 60 R132). -/
theorem fetch_of_unknown_opcode (hpc : s.pc.toNat ≤ 253) (h : ∀ m : Mnemonic, s.mem.read s.pc.toNat ≠ m.opcode) :
    fetch s = .error .unknownOpcode := by
  rw [fetch_eq, if_pos hpc, (decodeWindow_eq_none _ _ _).2 fun m => (h m).symm]

/-- The fetch raises OperandRangeError only where the window leaves memory (60 R133 a). -/
theorem fetch_eq_operandRange_iff : fetch s = .error .operandRange ↔ 254 ≤ s.pc.toNat := by
  refine ⟨fun h => ?_, fetch_of_pc_ge⟩
  by_contra hpc
  rw [fetch_eq, if_pos (by omega)] at h
  split at h <;> cases h

/-- Settles O8: the fetch raises, and the state of a raise does not run. -/
theorem unknownOpcodeEndsTheRun : Obligations.UnknownOpcodeEndsTheRun := by
  intro s hrun hpc h
  exact ⟨step_of_fetch_eq_error hrun (fetch_of_unknown_opcode hpc h), step_of_not_running rfl⟩

/-! ### A step that raises -/

/-- From a running state without a fault, a step faults where the fetch raises, or where the fetched instruction raises
its one kind, and always into the raise on the state before the step (60 R135). -/
theorem step_faults_iff (hrun : s.running = true) (hs : s.fault = none) :
    (step s = .next t ∧ t.fault = some k) ↔
      t = s.raise k ∧ (fetch s = .error k ∨ ∃ i, fetch s = .ok i ∧ Raises i s ∧ k = .operandRange) := by
  constructor
  · rintro ⟨h, hk⟩
    obtain ⟨-, ⟨i, hf, he⟩ | ⟨k', hf, rfl⟩⟩ := (step_eq_next s t).1 h
    · obtain hc | ⟨hr, rfl⟩ := exec_eq_next.1 he
      · rw [hc.fault_eq, hs] at hk
        cases hk
      · cases hk
        exact ⟨rfl, .inr ⟨i, hf, hr, rfl⟩⟩
    · cases hk
      exact ⟨rfl, .inl hf⟩
  · rintro ⟨rfl, hf | ⟨i, hf, hr, rfl⟩⟩
    · exact ⟨step_of_fetch_eq_error hrun hf, rfl⟩
    · exact ⟨(step_of_fetch_eq_ok hrun hf).trans hr.exec_eq, rfl⟩

/-- An error is precise: whatever raised it, the step's state is the raise on the state before it (60 R136). -/
theorem eq_raise_of_step (hs : s.fault = none) (h : step s = .next t) (hk : t.fault = some k) : t = s.raise k :=
  ((step_faults_iff ((step_eq_next s t).1 h).1 hs).1 ⟨h, hk⟩).1

/-- Settles O31: the raise changes `running` and `fault` alone. -/
theorem everyErrorIsPrecise : Obligations.EveryErrorIsPrecise :=
  fun _ _ _ => eq_raise_of_step

/-- Settles O34: the state of a raise does not run. -/
theorem noStepFollowsAnError : Obligations.NoStepFollowsAnError := by
  intro s t k hs h hk
  rw [eq_raise_of_step hs h hk]
  exact step_of_not_running rfl

/-! ### The conditions of OperandRangeError -/

theorem register_eq_seven_iff (hd : op1.toNat = d) : d = 7 ↔ op1 = 7 := by
  rw [Fin.ext_iff, ← hd, ← BitVec.toNat_inj]
  rfl

/-- The pointer that POP increments is the popped byte for POP R7, and the old pointer for every other register (43
R107, the spec's decision D10). -/
theorem setReg_sp_of_operand (hd : op1.toNat = d) (v : Byte) :
    (s.setReg d v).sp = if op1 = 7 then v else s.sp :=
  (State.setReg_sp s d v).trans (if_congr (register_eq_seven_iff hd) rfl rfl)

/-- POP raises where the pointer that it increments is 255, whatever byte names the register (60 R133 e). -/
theorem raises_pop_of_pointer (h : (if op1 = 7 then s.mem.read s.sp.toNat else s.sp) = 255#8) :
    Raises (.pop op1) s := by
  obtain ⟨d, hd⟩ | hr := register_or_raises (i := .pop op1) s (.head _)
  · exact .pop hd ((setReg_sp_of_operand hd _).trans h)
  · exact hr

/-- The conditions under which an instruction raises, POP R7 apart (60 R133 b to e, the spec's decisions D4, D7,
D10). -/
theorem raises_iff :
    Raises i s ↔
      (∃ b ∈ i.registerOperands, 7 < b.toNat) ∨
        ((i.mnemonic = .push ∨ i.mnemonic = .call) ∧ s.sp = 0#8) ∨
        ((i.mnemonic = .ret ∨ (i.mnemonic = .pop ∧ i ≠ .pop 7)) ∧ s.sp = 255#8) ∨
        (i = .pop 7 ∧ s.mem.read s.sp.toNat = 255#8) := by
  constructor
  · intro hr
    cases hr with
    | operand hb h => exact .inl ⟨_, hb, h⟩
    | push hsp => exact .inr (.inl ⟨.inl rfl, hsp⟩)
    | call hsp => exact .inr (.inl ⟨.inr rfl, hsp⟩)
    | ret hsp => exact .inr (.inr (.inl ⟨.inl rfl, hsp⟩))
    | @pop _ op1 _ hd hsp =>
      rw [setReg_sp_of_operand hd] at hsp
      by_cases h7 : op1 = 7
      · exact .inr (.inr (.inr ⟨congrArg _ h7, (if_pos h7).symm.trans hsp⟩))
      · have hne : Instr.pop op1 ≠ .pop 7 := fun h => h7 (Instr.pop.inj h)
        exact .inr (.inr (.inl ⟨.inr ⟨rfl, hne⟩, (if_neg h7).symm.trans hsp⟩))
  · rintro (⟨b, hb, h⟩ | ⟨hi, hsp⟩ | ⟨hi, hsp⟩ | ⟨rfl, hread⟩)
    · exact .operand hb h
    · cases i with
      | push => exact .push hsp
      | call => exact .call hsp
      | _ => simp [Instr.mnemonic] at hi
    · cases i with
      | ret => exact .ret hsp
      | pop op1 =>
        have h7 : op1 ≠ 7 := by simpa [Instr.mnemonic] using hi
        exact raises_pop_of_pointer ((if_neg h7).trans hsp)
      | _ => simp [Instr.mnemonic] at hi
    · exact raises_pop_of_pointer ((if_pos rfl).trans hread)

/-- Settles O33: the step faults so exactly where the window leaves memory or the fetched instruction raises. -/
theorem operandRangeConditionsAreComplete : Obligations.OperandRangeConditionsAreComplete := by
  intro s hrun hs
  calc (∃ t, step s = .next t ∧ t.fault = some .operandRange)
    _ ↔ fetch s = .error .operandRange ∨ ∃ i, fetch s = .ok i ∧ Raises i s := by
      simp [step_faults_iff hrun hs]
    _ ↔ _ := or_congr fetch_eq_operandRange_iff (exists_congr fun _ => and_congr_right fun _ => raises_iff)

/-! ### The status port and the trace port -/

/-- Different faults have different codes (60 R131, the spec's decision D15). -/
theorem faultCode_injective : Function.Injective faultCode := by
  rintro (_ | _ | _ | _) (_ | _ | _ | _) <;> decide

/-- Settles O46: each number is the code of its fault, and of no other. -/
theorem statusPortCodes : Obligations.StatusPortCodes :=
  fun _ => ⟨rfl, faultCode_injective.eq_iff (b := none), faultCode_injective.eq_iff (b := some .unknownOpcode),
    faultCode_injective.eq_iff (b := some .operandRange),
    faultCode_injective.eq_iff (b := some .unsupportedAluOperation)⟩

theorem tracePort_of_fetchWindow_eq_ok (hrun : s.running = true) (h : fetchWindow s = .ok (b0, op1, op2)) :
    tracePort s = some ⟨s.pc, b0, op1, op2, s.regs⟩ := by
  simp [tracePort, hrun, h]

theorem tracePort_of_fetchWindow_eq_error (h : fetchWindow s = .error k) : tracePort s = none := by
  simp [tracePort, h]

/-- Settles O47: the window is read exactly where its three addresses exist. -/
theorem tracePortShowsFetchedWindow : Obligations.TracePortShowsFetchedWindow := by
  intro s hrun
  refine ⟨fun hpc => tracePort_of_fetchWindow_eq_ok hrun (fetchWindow_of_le hpc), fun hpc => ?_⟩
  exact tracePort_of_fetchWindow_eq_error ((fetchWindow_eq s).trans (if_neg (by omega)))

end Sys2Proof.Machine

/-! Reset: the values of rule R150 from any state, and the first window after it. -/

namespace Sys2Proof.Machine

/-- The entry point is address 0, whatever state reset is applied in (70 R150, R151). -/
theorem applyReset_pc_toNat (s : State) : s.applyReset.pc.toNat = 0 := rfl

/-- Settles O44: reset replaces everything but memory, and the window at the entry point lies inside memory. -/
theorem resetGivesInitialState : Obligations.ResetGivesInitialState := by
  intro s
  have hpc : s.applyReset.pc.toNat ≤ 253 := (applyReset_pc_toNat s).trans_le (Nat.zero_le _)
  have hfetch := fetchWindow_of_le hpc
  rw [applyReset_pc_toNat, State.applyReset_mem] at hfetch
  exact ⟨rfl, hfetch⟩

end Sys2Proof.Machine

/-! The worked examples' bytes: an opcode selects its name's instruction, and a byte that is no opcode is rejected by
name. -/

namespace Sys2Proof.Machine

variable {b0 : Byte}

/-- A window whose first byte is an opcode decodes to what its name makes of the operand bytes (30 R50, R51, R60). -/
theorem decode_opcode (m : Mnemonic) (op1 op2 : Byte) (bytes : List Byte) :
    decode (m.opcode :: op1 :: op2 :: bytes) = .ok (m.instr op1 op2) :=
  decode_window_eq_ok.2 (decodeWindow_of_opcode ((decodeOpcode_eq_some _ m).2 rfl) op1 op2)

/-- A window whose first byte is no opcode is rejected, with that byte named (30 R58, R60). -/
theorem decode_of_decodeOpcode_eq_none (h : decodeOpcode b0 = none) (op1 op2 : Byte) (bytes : List Byte) :
    decode (b0 :: op1 :: op2 :: bytes) = .error (.unknownOpcode b0) := by
  simp [decode, decodeWindow, h]

/-- Settles O1: the first 13 windows begin with the opcode of the name given here, the last three with no opcode. -/
theorem documentedWordsDecode : Obligations.DocumentedWordsDecode :=
  ⟨decode_opcode .halt _ _ _, decode_opcode .loadImmediate _ _ _, decode_opcode .printRegister _ _ _,
    decode_opcode .multiply _ _ _, decode_opcode .add _ _ _, decode_opcode .compare _ _ _, decode_opcode .push _ _ _,
    decode_opcode .pop _ _ _, decode_opcode .call _ _ _, decode_opcode .ret _ _ _, decode_opcode .jump _ _ _,
    decode_opcode .jumpIfEqual _ _ _, decode_opcode .jumpIfNotEqual _ _ _,
    decode_of_decodeOpcode_eq_none rfl _ _ _, decode_of_decodeOpcode_eq_none rfl _ _ _,
    decode_of_decodeOpcode_eq_none rfl _ _ _⟩

end Sys2Proof.Machine
